-- ==== Sys2Proof/Word.lean ====
section
/-! DEFINITION. The word types: channel words of 32 bits (00_scope.md R9), octets, and bit sequences (R10). -/

namespace Sys2Proof

/-- A word of the command or the response channel: W = 32 bits (R9). -/
abbrev Word := BitVec 32

/-- An octet (R16); also one byte of a channel carried as bytes (20_memory.md R66). -/
abbrev Byte := BitVec 8

/-- A finite sequence of bits in transmission order: the head is bit 0, the first bit transmitted (R10). -/
abbrev Bits := List Bool

end Sys2Proof
end

