-- ==== Sys2Proof/Machine/Bits.lean ====
section
/-! DEFINITION. Bit sequences and words: `bitsOf`, `valOf`, words as bits and bits as words, octets, and a word as bytes
(00_scope.md R10 to R12, 20_memory.md R63 to R66, 30_encoding.md R91, 43_control_and_output.md R202). -/

namespace Sys2Proof

/-- `bitsOf_N(v)`: the N low bits of `v`, the most significant first (R11). -/
def bitsOf : Nat → Nat → Bits
  | 0, _ => []
  | n + 1, v => v.testBit n :: bitsOf n v

/-- `valOf(b)`: the sum of `b[i] * 2^(len(b)-1-i)` (R11). -/
def valOf : Bits → Nat
  | [] => 0
  | x :: xs => x.toNat * 2 ^ xs.length + valOf xs

/-- `zeros_N` (R11). -/
def zeros (n : Nat) : Bits := List.replicate n false

/-- `ones_N` (R11). -/
def ones (n : Nat) : Bits := List.replicate n true

/-- The bit sequence a channel word carries: `bitsOf_32(w)`, bit 31 first (R12, R66). -/
def wordBits (w : Word) : Bits := bitsOf 32 w.toNat

/-- The channel word that carries 32 bits (R12). -/
def bitsWord (b : Bits) : Word := BitVec.ofNat 32 (valOf b)

/-- `ceil(n/32)`: how many payload words carry `n` bits (R91, R202). -/
def wordsFor (n : Nat) : Nat := (n + 31) / 32

/-- The first `n` words of a bit sequence, 32 bits a word. -/
def chunkWords : Nat → Bits → List Word
  | 0, _ => []
  | n + 1, b => bitsWord (b.take 32) :: chunkWords n (b.drop 32)

/-- A bit sequence as payload words, the last one filled with zero bits (R91, R202). -/
def packWords (b : Bits) : List Word :=
  chunkWords (wordsFor b.length) (b ++ zeros (32 * wordsFor b.length - b.length))

/-- The bits that payload words carry, one after another (R91). -/
def unpackWords (ws : List Word) : Bits := ws.flatMap wordBits

/-- Octet `k` of a packet: bits 8k to 8k+7, bit 8k the most significant (R65). DESIGN CHOICE (log 20): R65 does not say
what an octet is that the packet holds only in part, or that lies past its end; here the bits it does hold stand
right-justified, 0 if there are none. Nothing the machine does reads this view. -/
def octetAt (b : Bits) (k : Nat) : Byte := BitVec.ofNat 8 (valOf ((b.drop (8 * k)).take 8))

/-- A channel word as bytes, the most significant first (R66). -/
def wordBytes (w : Word) : List Byte :=
  [w.extractLsb' 24 8, w.extractLsb' 16 8, w.extractLsb' 8 8, w.extractLsb' 0 8]

/-- The channel word of four bytes, the first the most significant (R66). -/
def bytesWord (a b c d : Byte) : Word := a ++ b ++ c ++ d

/-- The channel words of a byte stream, with the bytes of a word that has not arrived whole (R66). -/
def bytesWords : List Byte → List Word × List Byte
  | a :: b :: c :: d :: rest =>
    let more := bytesWords rest
    (bytesWord a b c d :: more.1, more.2)
  | rest => ([], rest)

end Sys2Proof
end

