-- ==== Sys2Proof/Syntax.lean ====
section
/-! DEFINITION. The enumerations of R15, the commands of opcode_table.json, one constructor a row, and the reasons for
which words are not yet a command. -/

namespace Sys2Proof

/-- `PacketType` (R15). -/
inductive PacketType where
  | telemetry
  | telecommand
  deriving DecidableEq, Repr

/-- `SecHdrFlag` (R15): three values, although the wire carries one bit (R83). -/
inductive SecHdrFlag where
  | present
  | notPresent
  | idle
  deriving DecidableEq, Repr

/-- `SeqFlags` (R15). -/
inductive SeqFlags where
  | continuation
  | first
  | last
  | unsegmented
  deriving DecidableEq, Repr

/-- The twelve assigned opcodes of R93 to R104. -/
inductive Opcode where
  | setId
  | setIdIdle
  | setSeq
  | setSecHdr
  | clrSecHdr
  | setUserData
  | setIdle
  | build
  | newBuilder
  | pktLen
  | pktSerialize
  | getStatus
  deriving DecidableEq, Repr

/-- The commands. One constructor for each row of opcode_table.json. -/
inductive Instr where
  /-- SET_ID (R93, R151). -/
  | setId (pt : PacketType) (shf : SecHdrFlag) (apid : Bits)
  /-- SET_ID_IDLE (R94, R152). -/
  | setIdIdle (pt : PacketType)
  /-- SET_SEQ (R95, R153). -/
  | setSeq (sf : SeqFlags) (count : Bits)
  /-- SET_SEC_HDR (R96, R154): each part present or absent on its own. -/
  | setSecHdr (tc anc : Option Bits)
  /-- CLR_SEC_HDR (R97, R155). -/
  | clrSecHdr
  /-- SET_USER_DATA (R98, R156). -/
  | setUserData (ud : Bits)
  /-- SET_IDLE (R99, R157). -/
  | setIdle (i : Bool)
  /-- BUILD (R100, R170). -/
  | build
  /-- NEW_BUILDER (R101, R200). -/
  | newBuilder
  /-- PKT_LEN (R102, R201). -/
  | pktLen
  /-- PKT_SERIALIZE (R103, R202). -/
  | pktSerialize
  /-- GET_STATUS (R104, R203). -/
  | getStatus
  /-- ILLEGAL (R108, R204). It keeps its command word and the operands its format makes it consume, so that no word of
  the stream is lost in decoding; its meaning uses neither. DESIGN CHOICE (log 8). -/
  | illegal (w0 : Word) (operands : List Bits)
  deriving DecidableEq, Repr

/-- Why the words on the command channel are not yet a whole command (R44, R68, R245). -/
inductive DecodeError where
  /-- There is no command word. -/
  | noCommandWord
  /-- A bit-field operand's length word has not arrived. -/
  | noLengthWord
  /-- A bit-field operand's payload words have not all arrived. -/
  | shortPayload
  deriving DecidableEq, Repr

end Sys2Proof
end

