-- ==== Sys2Proof/Machine/Operands.lean ====
section
/-! DEFINITION. The command formats: field codes (30_encoding.md R92), opcodes, reserved bits and operand counts (R90, R93 to
R104), and the one operand form there is, the bit-field operand (R91). -/

namespace Sys2Proof

/-- `PT` code: 0 Telemetry, 1 Telecommand (R82, R92). -/
def ptOfBit : Bool → PacketType
  | false => .telemetry
  | true => .telecommand

/-- The `PT` code of a packet type (R82, R92). -/
def PacketType.bit : PacketType → Bool
  | .telemetry => false
  | .telecommand => true

/-- `SHF` code: 00 NotPresent, 01 Present, 10 Idle, 11 reserved (R92, R108). -/
def shfOfCode (hi lo : Bool) : Option SecHdrFlag :=
  match hi, lo with
  | false, false => some .notPresent
  | false, true => some .present
  | true, false => some .idle
  | true, true => none

/-- The `SHF` code of a flag, as a number (R92). -/
def SecHdrFlag.code : SecHdrFlag → Nat
  | .notPresent => 0
  | .present => 1
  | .idle => 2

/-- `SF` code: 00 Continuation, 01 First, 10 Last, 11 Unsegmented (R85, R92). -/
def sfOfCode (hi lo : Bool) : SeqFlags :=
  match hi, lo with
  | false, false => .continuation
  | false, true => .first
  | true, false => .last
  | true, true => .unsegmented

/-- The `SF` code of a sequence flag, as a number (R85, R92). -/
def SeqFlags.code : SeqFlags → Nat
  | .continuation => 0
  | .first => 1
  | .last => 2
  | .unsegmented => 3

/-- The opcode byte of each assigned opcode (R93 to R104). -/
def Opcode.byte : Opcode → Byte
  | .setId => 0x01
  | .setIdIdle => 0x02
  | .setSeq => 0x03
  | .setSecHdr => 0x04
  | .clrSecHdr => 0x05
  | .setUserData => 0x06
  | .setIdle => 0x07
  | .build => 0x08
  | .newBuilder => 0x09
  | .pktLen => 0x0A
  | .pktSerialize => 0x0B
  | .getStatus => 0x0C

/-- Every assigned opcode. -/
def Opcode.all : List Opcode :=
  [.setId, .setIdIdle, .setSeq, .setSecHdr, .clrSecHdr, .setUserData, .setIdle, .build, .newBuilder, .pktLen,
    .pktSerialize, .getStatus]

/-- The assigned opcode of a byte; none for 0x00 and 0x0D to 0xFF (R108 case a). -/
def Opcode.ofByte (b : Byte) : Option Opcode := Opcode.all.find? (fun op => op.byte == b)

/-- Bit `k` of a channel word, bit 0 the least significant (R12). -/
def bitAt (w : Word) (k : Nat) : Bool := w.getLsbD k

/-- `w0[31:24]` (R90). -/
def opcodeByte (w0 : Word) : Byte := w0.extractLsb' 24 8

/-- How many low bits of `w0` the format leaves reserved: `w0[20:0]` for SET_ID, and so on (R90, R93 to R104, R109). -/
def Opcode.reservedWidth : Opcode → Nat
  | .setId => 21
  | .setIdIdle => 23
  | .setSeq => 22
  | .setSecHdr => 22
  | .clrSecHdr => 24
  | .setUserData => 24
  | .setIdle => 23
  | .build => 24
  | .newBuilder => 24
  | .pktLen => 24
  | .pktSerialize => 24
  | .getStatus => 24

/-- Is a reserved bit of `w0` 1 (R108 case b)? -/
def Opcode.reservedSet (op : Opcode) (w0 : Word) : Bool := w0.toNat % 2 ^ op.reservedWidth != 0

/-- Is this SET_ID with `SHF = 11` (R108 case c)? -/
def Opcode.shfReserved (op : Opcode) (w0 : Word) : Bool :=
  op == .setId && (shfOfCode (bitAt w0 22) (bitAt w0 21)).isNone

/-- How many bit-field operands follow `w0`: for SET_SEC_HDR the T and A bits say so (R96, R108, R109). -/
def Opcode.operandCount (op : Opcode) (w0 : Word) : Nat :=
  match op with
  | .setId => 1
  | .setSeq => 1
  | .setUserData => 1
  | .setSecHdr => (bitAt w0 23).toNat + (bitAt w0 22).toNat
  | .setIdIdle => 0
  | .clrSecHdr => 0
  | .setIdle => 0
  | .build => 0
  | .newBuilder => 0
  | .pktLen => 0
  | .pktSerialize => 0
  | .getStatus => 0

/-- How many operands follow any command word; an unassigned opcode consumes `w0` only (R108, R109). -/
def operandCountOf (w0 : Word) : Nat :=
  match Opcode.ofByte (opcodeByte w0) with
  | none => 0
  | some op => op.operandCount w0

/-- Is the command that begins with `w0` illegal (R108, cases a, b and c)? -/
def illegalWord (w0 : Word) : Bool :=
  match Opcode.ofByte (opcodeByte w0) with
  | none => true
  | some op => op.reservedSet w0 || op.shfReserved w0

/-- `RecvBF()`: a length word, `ceil(L/32)` payload words, the first L bits they carry (R91). -/
def recvBF : List Word → Except DecodeError (Bits × List Word)
  | [] => .error .noLengthWord
  | len :: ws =>
    if ws.length < wordsFor len.toNat then .error .shortPayload
    else .ok ((unpackWords (ws.take (wordsFor len.toNat))).take len.toNat, ws.drop (wordsFor len.toNat))

/-- `k` bit-field operands, one after another (R96, R109). -/
def recvOperands : Nat → List Word → Except DecodeError (List Bits × List Word)
  | 0, ws => .ok ([], ws)
  | k + 1, ws =>
    match recvBF ws with
    | .error e => .error e
    | .ok (b, rest) =>
      match recvOperands k rest with
      | .error e => .error e
      | .ok (bs, rest') => .ok (b :: bs, rest')

/-- A bit sequence as a bit-field operand: its length word and its payload words (R91). -/
def sendBF (b : Bits) : List Word := BitVec.ofNat 32 b.length :: packWords b

/-- The command word of an opcode with its fields, which stand in `w0[23:0]` (R90). -/
def commandWord (op : Opcode) (fields : Nat) : Word := BitVec.ofNat 32 (op.byte.toNat * 2 ^ 24 + fields)

end Sys2Proof
end

