-- ==== Sys2Proof/WellFormed.lean ====
section
/-! DEFINITION. Which commands can be sent at all: an operand's length fits its length word (R91), and an illegal command is
illegal and carries the operands its format says (R108). -/

namespace Sys2Proof

/-- A bit-field operand holds 0 to 2^32-1 bits (R9, R91). -/
def operandFits (b : Bits) : Bool := b.length < 2 ^ 32

/-- An optional operand fits when it is absent or fits. -/
def optOperandFits : Option Bits → Bool
  | none => true
  | some b => operandFits b

/-- An illegal command carries as many operands as its command word makes it consume (R108). -/
def operandsMatch (w0 : Word) (operands : List Bits) : Bool := operands.length == operandCountOf w0

/-- The commands that a word sequence of the command channel can stand for. -/
def Instr.wellFormed : Instr → Bool
  | .setId _ _ apid => operandFits apid
  | .setIdIdle _ => true
  | .setSeq _ count => operandFits count
  | .setSecHdr tc anc => optOperandFits tc && optOperandFits anc
  | .clrSecHdr => true
  | .setUserData ud => operandFits ud
  | .setIdle _ => true
  | .build => true
  | .newBuilder => true
  | .pktLen => true
  | .pktSerialize => true
  | .getStatus => true
  | .illegal w0 operands => illegalWord w0 && operandsMatch w0 operands && operands.all operandFits

end Sys2Proof
end

