-- ==== Sys2Proof/Decode.lean ====
section
/-! DEFINITION. The decoder of R109, total on any words, and the encoder written from the same formats (R90 to R104). -/

namespace Sys2Proof

/-- The command of a legal command word and its operands; none where the word is illegal by `SHF = 11` (R109). -/
def commandOf (op : Opcode) (w0 : Word) (operands : List Bits) : Option Instr :=
  match op, operands with
  | .setId, [b] => (shfOfCode (bitAt w0 22) (bitAt w0 21)).map fun f => .setId (ptOfBit (bitAt w0 23)) f b
  | .setIdIdle, [] => some (.setIdIdle (ptOfBit (bitAt w0 23)))
  | .setSeq, [b] => some (.setSeq (sfOfCode (bitAt w0 23) (bitAt w0 22)) b)
  | .setSecHdr, bs =>
    match bitAt w0 23, bitAt w0 22, bs with
    | false, false, [] => some (.setSecHdr none none)
    | true, false, [t] => some (.setSecHdr (some t) none)
    | false, true, [a] => some (.setSecHdr none (some a))
    | true, true, [t, a] => some (.setSecHdr (some t) (some a))
    | _, _, _ => none
  | .clrSecHdr, [] => some .clrSecHdr
  | .setUserData, [b] => some (.setUserData b)
  | .setIdle, [] => some (.setIdle (bitAt w0 23))
  | .build, [] => some .build
  | .newBuilder, [] => some .newBuilder
  | .pktLen, [] => some .pktLen
  | .pktSerialize, [] => some .pktSerialize
  | .getStatus, [] => some .getStatus
  | _, _ => none

/-- The command of an assigned opcode with the operands its format consumed, illegal when a reserved bit is 1 or
`SHF = 11` (R108 cases b and c, R109). -/
def interpret (op : Opcode) (w0 : Word) (operands : List Bits) : Instr :=
  if op.reservedSet w0 then .illegal w0 operands
  else (commandOf op w0 operands).getD (.illegal w0 operands)

/-- `Decode()` (R109): the first command of a word sequence and the words after it. The only words it rejects are those
that do not yet hold a whole command, by the name of what is missing. -/
def decode : List Word → Except DecodeError (Instr × List Word)
  | [] => .error .noCommandWord
  | w0 :: ws =>
    match Opcode.ofByte (opcodeByte w0) with
    | none => .ok (.illegal w0 [], ws)
    | some op =>
      match recvOperands (op.operandCount w0) ws with
      | .error e => .error e
      | .ok (operands, rest) => .ok (interpret op w0 operands, rest)

/-- Decoding a channel carried as bytes (R66). Bytes of an incomplete word stay after the words. -/
def decodeBytes (bs : List Byte) : Except DecodeError (Instr × List Word × List Byte) :=
  match decode (bytesWords bs).1 with
  | .error e => .error e
  | .ok (i, rest) => .ok (i, rest, (bytesWords bs).2)

/-- The words of an operand that may be absent. -/
def sendOptBF : Option Bits → List Word
  | none => []
  | some b => sendBF b

/-- The words of a command, from the formats of R93 to R104; unused low bits of a payload word are sent as zero
(log 10). -/
def encode : Instr → List Word
  | .setId pt shf apid => commandWord .setId (pt.bit.toNat * 2 ^ 23 + shf.code * 2 ^ 21) :: sendBF apid
  | .setIdIdle pt => [commandWord .setIdIdle (pt.bit.toNat * 2 ^ 23)]
  | .setSeq sf count => commandWord .setSeq (sf.code * 2 ^ 22) :: sendBF count
  | .setSecHdr tc anc =>
    commandWord .setSecHdr (tc.isSome.toNat * 2 ^ 23 + anc.isSome.toNat * 2 ^ 22) :: (sendOptBF tc ++ sendOptBF anc)
  | .clrSecHdr => [commandWord .clrSecHdr 0]
  | .setUserData ud => commandWord .setUserData 0 :: sendBF ud
  | .setIdle i => [commandWord .setIdle (i.toNat * 2 ^ 23)]
  | .build => [commandWord .build 0]
  | .newBuilder => [commandWord .newBuilder 0]
  | .pktLen => [commandWord .pktLen 0]
  | .pktSerialize => [commandWord .pktSerialize 0]
  | .getStatus => [commandWord .getStatus 0]
  | .illegal w0 operands => w0 :: operands.flatMap sendBF

/-- A command sent on a channel carried as bytes (R66). -/
def encodeBytes (i : Instr) : List Byte := (encode i).flatMap wordBytes

/-- The words after a command word, with zero words added until `k` operands are whole (log 12). -/
def fillOperands : Nat → List Word → List Word
  | 0, ws => ws
  | k + 1, [] => 0 :: fillOperands k []
  | k + 1, len :: ws =>
    len :: (ws.take (wordsFor len.toNat) ++ List.replicate (wordsFor len.toNat - ws.length) 0 ++
      fillOperands k (ws.drop (wordsFor len.toNat)))

/-- The channel words of the table's number `w` of `nbits` bits: bit 0 is the least significant bit of the first word,
a later word's bits count on from it, and every bit above `nbits` is 0. -/
def tableWords (nbits w : Nat) : List Word :=
  (List.range (max 1 (wordsFor nbits))).map fun k => BitVec.ofNat 32 ((w % 2 ^ nbits) >>> (32 * k))

/-- The same words, with the zero operand words that the instruction still needs (log 12). -/
def tableCommand (nbits w : Nat) : List Word :=
  match tableWords nbits w with
  | [] => []
  | w0 :: ws => w0 :: fillOperands (operandCountOf w0) ws

/-- The instruction the decoder reads from the table's number `w` of `nbits` bits. -/
def decodeTableWord (nbits w : Nat) : Option Instr :=
  match decode (tableCommand nbits w) with
  | .error _ => none
  | .ok (i, _) => some i

end Sys2Proof
end

