-- ==== Sys2Proof/Config.lean ====
section
/-! DEFINITION. The constants of R7, the parameter of R8 and the one value the spec leaves to the integration. -/

namespace Sys2Proof.Config

/-- OCTET = 8 bits (R7). -/
def octet : Nat := 8

/-- PH_BITS = 48, the primary header's length (R7). -/
def phBits : Nat := 48

/-- MAX_DATA_SIZE = 65536 octets (R7). -/
def maxDataSize : Nat := 65536

/-- MAX_DF_BITS = MAX_DATA_SIZE * OCTET = 524288 bits (R7). -/
def maxDfBits : Nat := 524288

/-- MAX_PKT_BITS = PH_BITS + MAX_DF_BITS = 524336 bits (R7, R41, R61). -/
def maxPktBits : Nat := 524336

/-- MIN_DF_OCTETS = 1 (R7). -/
def minDfOctets : Nat := 1

/-- APID_BITS = 11 (R7). -/
def apidBits : Nat := 11

/-- SEQ_COUNT_BITS = 14 (R7). -/
def seqCountBits : Nat := 14

/-- OCTET_ALIGN_CHECK, true for this hardware (R8, D16). The meaning of BUILD takes it as an argument, so that both
readings can be stated (log 6). -/
def octetAlignCheck : Bool := true

/-- How many words beyond the first the response channel holds before it is full. The spec names no capacity
(R247, D34), so nothing is known of this number. DESIGN CHOICE (log 2). -/
opaque respRoom : Nat

/-- The response channel's capacity in words: at least one (log 2). -/
def respCapacity : Nat := respRoom + 1

end Sys2Proof.Config
end

