-- ==== Sys2Proof/Machine/State.lean ====
section
/-! DEFINITION. The machine's state (10_state.md R33 to R46) as plain data, its reset value (R45), and the reasons a step can
stop. -/

namespace Sys2Proof.Machine

/-- `BSTATE` (R34). -/
inductive BState where
  | empty
  | populated
  | built
  | failed
  deriving DecidableEq, Repr

/-- `Ident` (R33). That `apid` has 11 bits is an invariant (`Ident.ok` in Safety.lean). -/
structure Ident where
  pt : PacketType
  shf : SecHdrFlag
  apid : Bits
  deriving DecidableEq, Repr

/-- `SeqCtl` (R33). That `count` has 14 bits is an invariant (`SeqCtl.ok` in Safety.lean). -/
structure SeqCtl where
  sf : SeqFlags
  count : Bits
  deriving DecidableEq, Repr

/-- `SecHdr` (R33): two opaque regions, each present or absent. -/
structure SecHdr where
  tc : Option Bits
  anc : Option Bits
  deriving DecidableEq, Repr

/-- `Packet` (R33): the serialised bits. -/
structure Packet where
  bits : Bits
  deriving DecidableEq, Repr

/-- The state record of R46, and the channel state of R44. -/
structure State where
  /-- `BSTATE` (R34). -/
  bstate : BState
  /-- `ID_SLOT` (R35). -/
  idSlot : Option Ident
  /-- `SC_SLOT` (R36). -/
  scSlot : Option SeqCtl
  /-- `SH_SLOT` (R37). -/
  shSlot : Option SecHdr
  /-- `UD_SLOT` (R38). -/
  udSlot : Option Bits
  /-- `IDLE` (R39). -/
  idle : Bool
  /-- `PKT` (R41): `PKT_VALID` is whether it is there, `PKT_LEN` its length (log 13). -/
  pkt : Option Packet
  /-- `LAST_STATUS` (R42), 8 bits. -/
  lastStatus : BitVec 8
  /-- The command words the host has sent and no performed command has consumed, oldest first. When they do not hold a
  whole command they are the partial command of R44 (log 3). -/
  cmdChan : List Word
  /-- The response words of the performed command that the response channel has not yet accepted, in order (R44, R247;
  log 1). -/
  outbox : List Word
  /-- The response words in the response channel that the host has not yet read, oldest first (R44; log 1). -/
  respChan : List Word
  deriving DecidableEq, Repr

/-- Why the formatter has no step. Each leaves the state as it was. -/
inductive Fault where
  /-- Raised by `step` when no command word is on the command channel: the block waits for one (R240). Safe: the block
  does nothing while it waits. -/
  | noCommand
  /-- Raised by `step` when the command channel holds part of a command: the block waits for the rest (R245, U12). Safe:
  the block does nothing while it waits. -/
  | incompleteCommand
  /-- Raised by `step` when a response word is to be sent and the response channel is full: the block waits for the host
  to read (R247, U12). Safe: the block does nothing while it waits. -/
  | responseFull
  /-- Raised by BUILD if the data-length field were asked for outside 1 to 65536 octets (R130, U3). Safe: no state reaches
  it, because BUILD checks first (R179). -/
  | dataLengthRange
  deriving DecidableEq, Repr

/-- Why an instruction has no meaning. -/
inductive Refusal where
  /-- Raised by `exec` for an instruction without a meaning yet, by its mnemonic. Safe: the model stops where the block
  goes on. No arm of `exec` raises it: every instruction has its meaning. -/
  | notModelled (mnemonic : String)
  deriving DecidableEq, Repr

/-- The state after reset (R45, R240): an empty builder, no packet, status OK, both channels empty. -/
def State.reset : State where
  bstate := .empty
  idSlot := none
  scSlot := none
  shSlot := none
  udSlot := none
  idle := false
  pkt := none
  lastStatus := 0x00
  cmdChan := []
  outbox := []
  respChan := []

end Sys2Proof.Machine
end

