-- ==== Sys2Proof/Machine/Flags.lean ====
section
/-! DEFINITION. The status codes (30_encoding.md R107), the single-bit state a host can observe (10_state.md R43) and the status
word (R105, R106, R205). -/

namespace Sys2Proof.Machine

/-- The status kinds of R107, with the source's spelling. -/
inductive Status where
  | ok
  | mandatoryFieldNotPresent
  | secondaryHeaderNotPresent
  | maxDataSizeExedded
  | minDataLen
  | apidLenMismatch
  | sequenceControlLenMismatch
  | dataFieldNotOctetAligned
  | builderConsumed
  | noPacket
  | illegalCommand
  deriving DecidableEq, Repr

/-- The status code of each kind (R107). -/
def Status.code : Status → BitVec 8
  | .ok => 0x00
  | .mandatoryFieldNotPresent => 0x01
  | .secondaryHeaderNotPresent => 0x02
  | .maxDataSizeExedded => 0x03
  | .minDataLen => 0x04
  | .apidLenMismatch => 0x05
  | .sequenceControlLenMismatch => 0x06
  | .dataFieldNotOctetAligned => 0x07
  | .builderConsumed => 0x08
  | .noPacket => 0x09
  | .illegalCommand => 0x0A

/-- The two-bit code of `BSTATE` (R34, R106). -/
def BState.code : BState → BitVec 2
  | .empty => 0
  | .populated => 1
  | .built => 2
  | .failed => 3

/-- `PKT_VALID` (R41, R43). -/
def State.pktValid (s : State) : Bool := s.pkt.isSome

/-- The length register `PKT_LEN` while `PKT_VALID` is 1 (R41). -/
def State.pktLenReg (s : State) : Option Nat := s.pkt.map fun p => p.bits.length

/-- Is the builder consumed: `BSTATE` Built or Failed (R16, R34, R150, R181)? -/
def State.consumed (s : State) : Bool := s.bstate == .built || s.bstate == .failed

/-- `statusWord(code)`: `PKT_VALID << 10 | BSTATE << 8 | code` (R105, R205). -/
def statusWord (code : BitVec 8) (s : State) : Word :=
  ((BitVec.ofBool s.pktValid).setWidth 32 <<< 10) ||| ((s.bstate.code).setWidth 32 <<< 8) ||| code.setWidth 32

end Sys2Proof.Machine
end

