-- ==== Sys2Proof/Machine/Ops.lean ====
section
/-! DEFINITION. The shared operations: how a command ends (R205), how it reports an error (R220: the block has no exception to
take, R233 to R235), the frame of every setter (R150), the two channels (R44, R68, R69, R247) and what the host can do
to them (R240, R250). -/

namespace Sys2Proof.Machine

/-- Append a response: the status word, then the payload (`SendWord`, R14, R205). -/
def sendAnswer (code : BitVec 8) (payload : List Word) (s : State) : State :=
  { s with outbox := s.outbox ++ statusWord code s :: payload }

/-- `finish(code, payload)`, which ends every command except GET_STATUS (R205): `LAST_STATUS`, then the response. It is
also the whole of reporting an error (R220): nothing is saved, control goes nowhere, the next command is taken. -/
def finish (e : Status) (payload : List Word) (s : State) : State :=
  sendAnswer e.code payload { s with lastStatus := e.code }

/-- `fail(e)` of BUILD (R170, R181): the builder is Failed. -/
def failBuild (e : Status) (s : State) : State := finish e [] { s with bstate := .failed }

/-- The setter frame (R150): refused on a consumed builder; an error of the body changes no slot; else the body's write,
and the builder is Populated. -/
def setter (body : Except Status State) (s : State) : State :=
  if s.consumed then finish .builderConsumed [] s
  else
    match body with
    | .error e => finish e [] s
    | .ok s' => finish .ok [] { s' with bstate := .populated }

/-- Take the next whole command from the command channel, and leave the words after it (R68, R69). -/
def takeCommand (s : State) : Except DecodeError (Instr × State) :=
  match decode s.cmdChan with
  | .error e => .error e
  | .ok (i, rest) => .ok (i, { s with cmdChan := rest })

/-- What the block waits for when the command channel holds no whole command (R240, R245). -/
def waitFault : DecodeError → Fault
  | .noCommandWord => .noCommand
  | .noLengthWord => .incompleteCommand
  | .shortPayload => .incompleteCommand

/-- Give the next response word to the response channel, if it has room (R247; log 1, log 2). -/
def sendResponse (w : Word) (more : List Word) (s : State) : Host.Outcome State Fault Refusal :=
  if s.respChan.length < Config.respCapacity then .next { s with outbox := more, respChan := s.respChan ++ [w] }
  else .fault .responseFull

/-- The host sends one command word (R250). -/
def hostSend (w : Word) (s : State) : State := { s with cmdChan := s.cmdChan ++ [w] }

/-- The host reads the next response word, if there is one (R250). -/
def hostRead (s : State) : Option (Word × State) :=
  match s.respChan with
  | [] => none
  | w :: more => some (w, { s with respChan := more })

/-- The host asserts reset: every component at its reset value, the partial command and the unread response words
discarded (R240; log 9). -/
def hostReset (_ : State) : State := State.reset

end Sys2Proof.Machine
end

