-- ==== Sys2Proof/Machine/Packers.lean ====
section
/-! DEFINITION. The bitfield packer and the primary-header assembler (40_field_packers.md R120 to R133): pure functions. -/

namespace Sys2Proof.Machine

/-- `identNew` (R120): APIDLenMismatch exactly when the APID is not 11 bits. -/
def identNew (pt : PacketType) (shf : SecHdrFlag) (apid : Bits) : Except Status Ident :=
  if apid.length ≠ Config.apidBits then .error .apidLenMismatch else .ok ⟨pt, shf, apid⟩

/-- `identIdle` (R121): flag Idle, APID eleven ones. -/
def identIdle (pt : PacketType) : Ident := ⟨pt, .idle, ones Config.apidBits⟩

/-- `ptCode` (R82, R122). -/
def ptCode : PacketType → Nat
  | .telemetry => 0
  | .telecommand => 1

/-- `shfBit` (R83, R122): Idle and NotPresent give the same wire bit. -/
def shfBit : SecHdrFlag → Nat
  | .present => 1
  | .notPresent => 0
  | .idle => 0

/-- `packIdent` (R122). -/
def packIdent (i : Ident) : Bits := bitsOf 1 (ptCode i.pt) ++ bitsOf 1 (shfBit i.shf) ++ i.apid

/-- `seqNew` (R123): SequenceControlLenMismatch exactly when the count is not 14 bits. -/
def seqNew (sf : SeqFlags) (count : Bits) : Except Status SeqCtl :=
  if count.length ≠ Config.seqCountBits then .error .sequenceControlLenMismatch else .ok ⟨sf, count⟩

/-- `sfCode` (R85, R124). -/
def sfCode : SeqFlags → Nat
  | .continuation => 0
  | .first => 1
  | .last => 2
  | .unsegmented => 3

/-- `packSeq` (R124). -/
def packSeq (c : SeqCtl) : Bits := bitsOf 2 (sfCode c.sf) ++ c.count

/-- The length of a part that may be absent (R125). -/
def partLen : Option Bits → Nat
  | none => 0
  | some b => b.length

/-- `secHdrLen` (R125). -/
def secHdrLen (h : SecHdr) : Nat := partLen h.tc + partLen h.anc

/-- `packSecHdr` (R126): the time code, then the ancillary part. -/
def packSecHdr (h : SecHdr) : Bits := h.tc.getD [] ++ h.anc.getD []

/-- `DataField` (R127). -/
structure DataField where
  sh : Option SecHdr
  ud : Bits
  deriving DecidableEq, Repr

/-- The length of a data field's secondary header; 0 where there is none (R127). -/
def optSecHdrLen : Option SecHdr → Nat
  | none => 0
  | some h => secHdrLen h

/-- `dataFieldLen` (R127). -/
def dataFieldLen (d : DataField) : Nat := optSecHdrLen d.sh + d.ud.length

/-- The bits of a data field's secondary header; none where there is none (R128). -/
def packOptSecHdr : Option SecHdr → Bits
  | none => []
  | some h => packSecHdr h

/-- `packDataField` (R128): the secondary header, then the user data, with no gap. -/
def packDataField (d : DataField) : Bits := packOptSecHdr d.sh ++ d.ud

/-- `DEFAULT_UD` (R129). -/
def defaultUd : Bits := zeros 8

/-- `dataLengthField` (R130): `bitsOf_16(size - 1)`; none outside 1 to 65536, where the caller faults (U3). -/
def dataLengthField (size : Nat) : Option Bits :=
  if Config.minDfOctets ≤ size ∧ size ≤ Config.maxDataSize then some (bitsOf 16 (size - 1)) else none

/-- `packPrimary` (R131): version, identification, sequence control, data length. -/
def packPrimary (i : Ident) (c : SeqCtl) (dl : Bits) : Bits := zeros 3 ++ packIdent i ++ packSeq c ++ dl

/-- `packetLen` (R132). -/
def packetLen (d : DataField) : Nat := Config.phBits + dataFieldLen d

/-- `serialize` (R133). -/
def serialize (ph : Bits) (d : DataField) : Bits := ph ++ packDataField d

end Sys2Proof.Machine
end

