-- ==== Sys2Proof/Machine/Build.lean ====
section
/-! DEFINITION. BUILD (42_build.md R170 to R181), its steps in the order of R170. -/

namespace Sys2Proof.Machine

/-- What BUILD assembles once every check has passed: the identification after step b, the sequence control and the data
field (R170). -/
structure BuildPlan where
  ident : Ident
  seq : SeqCtl
  data : DataField
  deriving DecidableEq, Repr

/-- Step b (R172): the idle flag replaces the identification, keeping its packet type. -/
def idleOverride (idle : Bool) (i : Ident) : Ident := if idle then identIdle i.pt else i

/-- Step d (R173): the flag is Present, and no header is held or the held one has length 0. -/
def headerMissing (i : Ident) (sh : Option SecHdr) : Bool := i.shf == .present && optSecHdrLen sh == 0

/-- Step e (R174): the held header only when the flag is Present, and the held or the default user data. -/
def attach (i : Ident) (sh : Option SecHdr) (ud : Option Bits) : DataField :=
  ⟨if i.shf = .present then sh else none, ud.getD defaultUd⟩

/-- Steps g, j and the octet alignment (R176, R177, R178), in that order. -/
def checkData (align : Bool) (d : DataField) : Except Status DataField :=
  if dataFieldLen d > Config.maxDfBits then .error .maxDataSizeExedded
  else if d.ud.length < Config.octet then .error .minDataLen
  else if align && dataFieldLen d % Config.octet != 0 then .error .dataFieldNotOctetAligned
  else .ok d

/-- Steps b to the octet alignment, for the identification and the sequence control that step a found (R172 to R178). -/
def checkBuild (align : Bool) (i : Ident) (c : SeqCtl) (s : State) : Except Status BuildPlan :=
  if headerMissing (idleOverride s.idle i) s.shSlot then .error .secondaryHeaderNotPresent
  else
    match checkData align (attach (idleOverride s.idle i) s.shSlot s.udSlot) with
    | .error e => .error e
    | .ok d => .ok ⟨idleOverride s.idle i, c, d⟩

/-- Step a, then the other checks (R171). -/
def planBuild (align : Bool) (s : State) : Except Status BuildPlan :=
  match s.idSlot, s.scSlot with
  | some i, some c => checkBuild align i c s
  | _, _ => .error .mandatoryFieldNotPresent

/-- Steps h and i (R179, R180): the data length, the primary header, and the commit of the packet. -/
def commitBuild (p : BuildPlan) (s : State) : Host.Outcome State Fault Refusal :=
  match dataLengthField (dataFieldLen p.data / Config.octet) with
  | none => .fault .dataLengthRange
  | some dl =>
    .next (finish .ok []
      { s with pkt := some ⟨serialize (packPrimary p.ident p.seq dl) p.data⟩, bstate := .built })

/-- BUILD with `OCTET_ALIGN_CHECK` as an argument (R8, R170). -/
def execBuildWith (align : Bool) (s : State) : Host.Outcome State Fault Refusal :=
  if s.consumed then .next (finish .builderConsumed [] s)
  else
    match planBuild align s with
    | .error e => .next (failBuild e s)
    | .ok p => commitBuild p s

/-- BUILD on this hardware (R170). -/
def execBuild (s : State) : Host.Outcome State Fault Refusal := execBuildWith Config.octetAlignCheck s

end Sys2Proof.Machine
end

