-- ==== Sys2Proof/Machine/Control.lean ====
section
/-! DEFINITION. The control commands and the illegal command (43_control_and_output.md R200, R203, R204). -/

namespace Sys2Proof.Machine

/-- NEW_BUILDER (R200): accepted in every builder state; the packet is kept. -/
def execNewBuilder (s : State) : Host.Outcome State Fault Refusal :=
  .next (finish .ok []
    { s with bstate := .empty, idSlot := none, scSlot := none, shSlot := none, udSlot := none, idle := false })

/-- GET_STATUS (R203): the last status, which is not written. -/
def execGetStatus (s : State) : Host.Outcome State Fault Refusal := .next (sendAnswer s.lastStatus [] s)

/-- An illegal command (R204): no state change but `LAST_STATUS`, whatever its words were. -/
def execIllegal (_w0 : Word) (_operands : List Bits) (s : State) : Host.Outcome State Fault Refusal :=
  .next (finish .illegalCommand [] s)

end Sys2Proof.Machine
end

