-- ==== Sys2Proof/Machine/Output.lean ====
section
/-! DEFINITION. The packet output commands (43_control_and_output.md R201, R202). -/

namespace Sys2Proof.Machine

/-- Answer with a payload made of the held packet, or NoPacket (R201, R202, R230). -/
def readPacket (payload : Packet → List Word) (s : State) : State :=
  match s.pkt with
  | none => finish .noPacket [] s
  | some p => finish .ok (payload p) s

/-- The packet's length in bits, as one word (R201). -/
def lengthWord (p : Packet) : Word := BitVec.ofNat 32 p.bits.length

/-- PKT_LEN (R201). -/
def execPktLen (s : State) : Host.Outcome State Fault Refusal := .next (readPacket (fun p => [lengthWord p]) s)

/-- PKT_SERIALIZE (R202): the length, then the packet's bits, the last word filled with zero bits. -/
def execPktSerialize (s : State) : Host.Outcome State Fault Refusal :=
  .next (readPacket (fun p => lengthWord p :: packWords p.bits) s)

end Sys2Proof.Machine
end

