-- ==== Sys2Proof/Machine/Setters.lean ====
section
/-! DEFINITION. The builder setter commands (41_builder_setters.md R151 to R157), each its body inside the setter frame of R150. -/

namespace Sys2Proof.Machine

/-- `body_SET_ID` (R151): APIDLenMismatch keeps the slot. -/
def bodySetId (pt : PacketType) (shf : SecHdrFlag) (apid : Bits) (s : State) : Except Status State :=
  match identNew pt shf apid with
  | .error e => .error e
  | .ok i => .ok { s with idSlot := some i }

/-- `body_SET_SEQ` (R153): SequenceControlLenMismatch keeps the slot. -/
def bodySetSeq (sf : SeqFlags) (count : Bits) (s : State) : Except Status State :=
  match seqNew sf count with
  | .error e => .error e
  | .ok c => .ok { s with scSlot := some c }

/-- SET_ID (R151). -/
def execSetId (pt : PacketType) (shf : SecHdrFlag) (apid : Bits) (s : State) : Host.Outcome State Fault Refusal :=
  .next (setter (bodySetId pt shf apid s) s)

/-- SET_ID_IDLE (R152). -/
def execSetIdIdle (pt : PacketType) (s : State) : Host.Outcome State Fault Refusal :=
  .next (setter (.ok { s with idSlot := some (identIdle pt) }) s)

/-- SET_SEQ (R153). -/
def execSetSeq (sf : SeqFlags) (count : Bits) (s : State) : Host.Outcome State Fault Refusal :=
  .next (setter (bodySetSeq sf count s) s)

/-- SET_SEC_HDR (R154): both parts of the previous header are replaced. -/
def execSetSecHdr (tc anc : Option Bits) (s : State) : Host.Outcome State Fault Refusal :=
  .next (setter (.ok { s with shSlot := some ⟨tc, anc⟩ }) s)

/-- CLR_SEC_HDR (R155). -/
def execClrSecHdr (s : State) : Host.Outcome State Fault Refusal :=
  .next (setter (.ok { s with shSlot := none }) s)

/-- SET_USER_DATA (R156): any length, checked by BUILD. -/
def execSetUserData (ud : Bits) (s : State) : Host.Outcome State Fault Refusal :=
  .next (setter (.ok { s with udSlot := some ud }) s)

/-- SET_IDLE (R157). -/
def execSetIdle (i : Bool) (s : State) : Host.Outcome State Fault Refusal :=
  .next (setter (.ok { s with idle := i }) s)

end Sys2Proof.Machine
end

