-- ==== Sys2Proof/Machine/Dispatch.lean ====
section
/-! DEFINITION. The meaning of every command, one arm a constructor. -/

namespace Sys2Proof.Machine

def exec (i : Instr) (s : State) : Host.Outcome State Fault Refusal :=
  match i with
  | .setId pt shf apid => Sys2Proof.Machine.execSetId pt shf apid s
  | .setIdIdle pt => Sys2Proof.Machine.execSetIdIdle pt s
  | .setSeq sf count => Sys2Proof.Machine.execSetSeq sf count s
  | .setSecHdr tc anc => Sys2Proof.Machine.execSetSecHdr tc anc s
  | .clrSecHdr => Sys2Proof.Machine.execClrSecHdr s
  | .setUserData ud => Sys2Proof.Machine.execSetUserData ud s
  | .setIdle b => Sys2Proof.Machine.execSetIdle b s
  | .build => Sys2Proof.Machine.execBuild s
  | .newBuilder => Sys2Proof.Machine.execNewBuilder s
  | .pktLen => Sys2Proof.Machine.execPktLen s
  | .pktSerialize => Sys2Proof.Machine.execPktSerialize s
  | .getStatus => Sys2Proof.Machine.execGetStatus s
  | .illegal w0 operands => Sys2Proof.Machine.execIllegal w0 operands s

end Sys2Proof.Machine
end

