-- ==== Sys2Proof/Machine/Step.lean ====
section
/-! DEFINITION. One step of the formatter (R68, R69, R205, R247): it gives one pending response word to the response channel,
or, when its response has been accepted whole, takes one whole command and performs it. -/

namespace Sys2Proof.Machine

/-- One step. The block waits (has no step) when the response channel is full or no whole command has arrived. -/
def step (s : State) : Host.Outcome State Fault Refusal :=
  match s.outbox with
  | w :: more => sendResponse w more s
  | [] =>
    match takeCommand s with
    | .error e => .fault (waitFault e)
    | .ok (i, s') => exec i s'

/-- `s` with the table's instruction first on the command channel, so that the next step performs it: a pending response
is first accepted whole by the response channel (log 12). -/
def State.withFetchWord (s : State) (nbits w : Nat) : State :=
  { s with cmdChan := tableCommand nbits w ++ s.cmdChan, outbox := [], respChan := s.respChan ++ s.outbox }

end Sys2Proof.Machine
end

