-- ==== Sys2Proof/Machine/Assembler.lean ====
section
/-! DEFINITION. The assembler syntax of 30_encoding.md R110 and R111: one line, one command. -/

namespace Sys2Proof

/-- The value of a digit, where it is one in the base. -/
def digitValue (base : Nat) (c : Char) : Option Nat :=
  let v :=
    if '0' ≤ c ∧ c ≤ '9' then c.toNat - '0'.toNat
    else if 'A' ≤ c ∧ c ≤ 'F' then c.toNat - 'A'.toNat + 10
    else if 'a' ≤ c ∧ c ≤ 'f' then c.toNat - 'a'.toNat + 10
    else base
  if v < base then some v else none

/-- A number in a base, the digits read so far in `acc`. -/
def readNumber (base acc : Nat) : List Char → Option Nat
  | [] => some acc
  | c :: cs =>
    match digitValue base c with
    | none => none
    | some v => readNumber base (acc * base + v) cs

/-- A number of at least one digit. -/
def readDigits (base : Nat) (cs : List Char) : Option Nat := if cs.isEmpty then none else readNumber base 0 cs

/-- A bit-field literal `N'hV` or `N'bV` with `V < 2^N`: N bits holding `bitsOf_N(V)` (R110). -/
def readBitField (cs : List Char) : Option Bits :=
  match readDigits 10 (cs.takeWhile (· != '\'')), cs.dropWhile (· != '\'') with
  | some n, _ :: radix :: digits =>
    let value := if radix = 'h' then readDigits 16 digits else if radix = 'b' then readDigits 2 digits else none
    match value with
    | some v => if v < 2 ^ n then some (bitsOf n v) else none
    | none => none
  | _, _ => none

/-- A bit-field literal, or `-` for an absent part (R110). -/
def readOptBitField (cs : List Char) : Option (Option Bits) :=
  if cs = ['-'] then some none else (readBitField cs).map some

/-- `<pt>` (R110). -/
def readPacketType (cs : List Char) : Option PacketType :=
  if cs = "TM".toList then some .telemetry else if cs = "TC".toList then some .telecommand else none

/-- `<shf>` (R110). -/
def readSecHdrFlag (cs : List Char) : Option SecHdrFlag :=
  if cs = "NOTPRESENT".toList then some .notPresent
  else if cs = "PRESENT".toList then some .present
  else if cs = "IDLE".toList then some .idle
  else none

/-- `<sf>` (R110). -/
def readSeqFlags (cs : List Char) : Option SeqFlags :=
  if cs = "CONT".toList then some .continuation
  else if cs = "FIRST".toList then some .first
  else if cs = "LAST".toList then some .last
  else if cs = "UNSEG".toList then some .unsegmented
  else none

/-- The idle flag value of SET_IDLE (R110). -/
def readIdleValue (cs : List Char) : Option Bool :=
  if cs = ['0'] then some false else if cs = ['1'] then some true else none

/-- A line's words, split at spaces and commas; `word` is the one being read. -/
def lineWords (word : List Char) : List Char → List (List Char)
  | [] => if word.isEmpty then [] else [word]
  | c :: cs =>
    if c = ' ' ∨ c = ',' then (if word.isEmpty then lineWords [] cs else word :: lineWords [] cs)
    else lineWords (word ++ [c]) cs

/-- The command of a mnemonic without operands (R110). -/
def assemblePlain (m : List Char) : Option Instr :=
  if m = "CLR_SEC_HDR".toList then some .clrSecHdr
  else if m = "BUILD".toList then some .build
  else if m = "NEW_BUILDER".toList then some .newBuilder
  else if m = "PKT_LEN".toList then some .pktLen
  else if m = "PKT_SERIALIZE".toList then some .pktSerialize
  else if m = "GET_STATUS".toList then some .getStatus
  else none

/-- The command of a mnemonic with one operand (R110). -/
def assembleOne (m x : List Char) : Option Instr :=
  if m = "SET_ID_IDLE".toList then (readPacketType x).map .setIdIdle
  else if m = "SET_USER_DATA".toList then (readBitField x).map .setUserData
  else if m = "SET_IDLE".toList then (readIdleValue x).map .setIdle
  else none

/-- The command of a mnemonic with two operands (R110). -/
def assembleTwo (m x y : List Char) : Option Instr :=
  if m = "SET_SEQ".toList then
    match readSeqFlags x, readBitField y with
    | some sf, some b => some (.setSeq sf b)
    | _, _ => none
  else if m = "SET_SEC_HDR".toList then
    match readOptBitField x, readOptBitField y with
    | some tc, some anc => some (.setSecHdr tc anc)
    | _, _ => none
  else none

/-- The command of a mnemonic with three operands (R110). -/
def assembleThree (m x y z : List Char) : Option Instr :=
  if m = "SET_ID".toList then
    match readPacketType x, readSecHdrFlag y, readBitField z with
    | some pt, some shf, some b => some (.setId pt shf b)
    | _, _, _ => none
  else none

/-- The command of one line of the assembler syntax (R110); there are no pseudo-instructions (R111). -/
def assemble (line : String) : Option Instr :=
  match lineWords [] line.toList with
  | [m] => assemblePlain m
  | [m, x] => assembleOne m x
  | [m, x, y] => assembleTwo m x y
  | [m, x, y, z] => assembleThree m x y z
  | _ => none

end Sys2Proof
end

