-- ==== Sys2Proof/Safety.lean ====
section
/-! DEFINITION. The terms claims use: the invariant of the state (10_state.md R33 to R42), commands as functions on a state with
their answers (R46), and a session of the block with its host (70_reset_and_hazards.md R250, R251). -/

namespace Sys2Proof.Machine

/-- The constraint of `Ident` (R33). -/
def Ident.ok (i : Ident) : Prop := i.apid.length = Config.apidBits

/-- The constraint of `SeqCtl` (R33). -/
def SeqCtl.ok (c : SeqCtl) : Prop := c.count.length = Config.seqCountBits

/-- A held region's length fits its 32-bit length register (R37, R38). -/
abbrev regionFits (b : Bits) : Prop := b.length < 2 ^ 32

/-- Both parts of a held secondary header fit their length registers (R37). -/
def SecHdr.fits (h : SecHdr) : Prop := (∀ b, h.tc = some b → regionFits b) ∧ ∀ b, h.anc = some b → regionFits b

/-- A data field BUILD accepts for an identification: 1 to 65536 octets with at least one octet of user data, a whole
number of octets when OCTET_ALIGN_CHECK is on, and a secondary header exactly when the flag is Present, of at least one
bit (R88, R89, R173 to R178). -/
structure DataField.accepted (align : Bool) (i : Ident) (d : DataField) : Prop where
  userData : 8 ≤ d.ud.length
  atMost : dataFieldLen d ≤ 524288
  aligned : align = true → dataFieldLen d % 8 = 0
  header : d.sh.isSome = true ↔ i.shf = .present
  substantive : i.shf = .present → 1 ≤ optSecHdrLen d.sh

/-- The constraint of `Packet` (R33, R89): the serialisation of an identification, a sequence control and an accepted
data field, with the data length of R87. -/
def Packet.wf (p : Packet) : Prop :=
  ∃ (i : Ident) (c : SeqCtl) (d : DataField), i.ok ∧ c.ok ∧ d.accepted Config.octetAlignCheck i ∧
    p.bits = serialize (packPrimary i c (bitsOf 16 (dataFieldLen d / 8 - 1))) d

/-- What holds of the state between steps. -/
structure State.Inv (s : State) : Prop where
  /-- R33, R35. -/
  ident : ∀ i, s.idSlot = some i → i.ok
  /-- R33, R36. -/
  seq : ∀ c, s.scSlot = some c → c.ok
  /-- R37. -/
  header : ∀ h, s.shSlot = some h → h.fits
  /-- R38. -/
  userData : ∀ b, s.udSlot = some b → regionFits b
  /-- R33, R41. -/
  packet : ∀ p, s.pkt = some p → p.wf
  /-- R107: the codes 0x0B to 0xFF are never produced. -/
  status : s.lastStatus.toNat ≤ 0x0A
  /-- R34, R45, R200: an Empty builder holds nothing. -/
  emptyHoldsNothing : s.bstate = .empty →
    s.idSlot = none ∧ s.scSlot = none ∧ s.shSlot = none ∧ s.udSlot = none ∧ s.idle = false
  /-- R180: while the builder is Built a packet is held. -/
  builtHoldsPacket : s.bstate = .built → s.pkt.isSome = true

/-- A command as R46 gives it: from a state to the next state and the response words, the channels left alone. -/
def perform (i : Instr) (s : State) : State × List Word :=
  match exec i { s with outbox := [] } with
  | .next t => ({ t with outbox := s.outbox }, t.outbox)
  | .fault _ => (s, [])
  | .refused _ => (s, [])

/-- A list of commands, one after another, with all their response words in order (R69, R251). -/
def performAll : List Instr → State → State × List Word
  | [], s => (s, [])
  | i :: is, s =>
    let first := perform i s
    let rest := performAll is first.1
    (rest.1, first.2 ++ rest.2)

/-- What can happen next in a session: the block tries a step, or the host acts (R30, R250). -/
inductive Event where
  /-- The formatter takes its step, if it has one. -/
  | block
  /-- The host sends a command word. -/
  | send (w : Word)
  /-- The host reads a response word, if there is one. -/
  | read
  /-- The host asserts reset. -/
  | reset
  deriving DecidableEq, Repr

/-- The block, and the response words the host has read so far. -/
structure Session where
  block : State
  got : List Word
  deriving DecidableEq, Repr

/-- One event. A block without a step waits (R245, R247), a host that finds no response word waits. -/
def Session.apply (e : Event) (r : Session) : Session :=
  match e with
  | .block =>
    match step r.block with
    | .next s => { r with block := s }
    | .fault _ => r
    | .refused _ => r
  | .send w => { r with block := hostSend w r.block }
  | .read =>
    match hostRead r.block with
    | none => r
    | some (w, s) => ⟨s, r.got ++ [w]⟩
  | .reset => { r with block := hostReset r.block }

/-- A schedule: events one after another. -/
def Session.run : List Event → Session → Session
  | [], r => r
  | e :: es, r => Session.run es (r.apply e)

/-- The words a schedule has the host send. -/
def sentWords : List Event → List Word
  | [] => []
  | .send w :: es => w :: sentWords es
  | .block :: es => sentWords es
  | .read :: es => sentWords es
  | .reset :: es => sentWords es

/-- The end of a run: every command performed, every response word read (R251). -/
def Session.finished (r : Session) : Prop := r.block.cmdChan = [] ∧ r.block.outbox = [] ∧ r.block.respChan = []

/-- Two states that differ in the builder slots at most (R40). -/
def agreeOutsideSlots (s t : State) : Prop :=
  t = { s with idSlot := t.idSlot, scSlot := t.scSlot, shSlot := t.shSlot, udSlot := t.udSlot, idle := t.idle }

end Sys2Proof.Machine
end

