-- ==== Sys2Proof/Certificates/Slice0/Obligations.lean ====
section
/-! DEFINITION. The statements for the provers. The helpers in Sys2Proof.Claims are written from the spec's words, in plain
numbers, and call no meaning of the machine. -/

namespace Sys2Proof.Claims

open Sys2Proof.Machine

/-- The number of a builder state in the status word (R106). -/
def bstateNumber : BState → Nat
  | .empty => 0
  | .populated => 1
  | .built => 2
  | .failed => 3

/-- The status word of R105 for a state after a command: CODE + 256 * BSTATE + 1024 * PKT_VALID, bits 31:11 zero. -/
def answerWord (code : Nat) (s : State) : Word :=
  BitVec.ofNat 32 (code + 256 * bstateNumber s.bstate + 1024 * if s.pkt.isSome then 1 else 0)

/-- `finish(code, payload)` of R205: LAST_STATUS, then the status word and the payload appended to the response. -/
def finished (code : Nat) (payload : List Word) (s : State) : State :=
  { s with lastStatus := BitVec.ofNat 8 code, outbox := s.outbox ++ answerWord code s :: payload }

/-- The builder is not consumed (R34, R150). -/
abbrev builderOpen (s : State) : Prop := s.bstate = .empty ∨ s.bstate = .populated

/-- The builder is consumed (R16, R150). -/
abbrev builderConsumed (s : State) : Prop := s.bstate = .built ∨ s.bstate = .failed

/-- The seven setters (R150 to R157). -/
def isSetter : Instr → Prop
  | .setId _ _ _ => True
  | .setIdIdle _ => True
  | .setSeq _ _ => True
  | .setSecHdr _ _ => True
  | .clrSecHdr => True
  | .setUserData _ => True
  | .setIdle _ => True
  | .build => False
  | .newBuilder => False
  | .pktLen => False
  | .pktSerialize => False
  | .getStatus => False
  | .illegal _ _ => False

/-- The words of a bit-field operand: a length word and ceil(L/32) payload words (R91). -/
def operandWords (b : Bits) : Nat := 1 + (b.length + 31) / 32

/-- The words of an operand that may be absent. -/
def optOperandWords : Option Bits → Nat
  | none => 0
  | some b => operandWords b

/-- The length in words of a command (R109). -/
def commandWords : Instr → Nat
  | .setId _ _ apid => 1 + operandWords apid
  | .setIdIdle _ => 1
  | .setSeq _ count => 1 + operandWords count
  | .setSecHdr tc anc => 1 + optOperandWords tc + optOperandWords anc
  | .clrSecHdr => 1
  | .setUserData ud => 1 + operandWords ud
  | .setIdle _ => 1
  | .build => 1
  | .newBuilder => 1
  | .pktLen => 1
  | .pktSerialize => 1
  | .getStatus => 1
  | .illegal _ operands => 1 + (operands.map operandWords).sum

/-- The opcode number `w0[31:24]` (R90). -/
def opcodeNumber (w0 : Word) : Nat := w0.toNat / 2 ^ 24

/-- The opcode is 0x00 or 0x0D to 0xFF (R108 case a). -/
abbrev opcodeUnassigned (w0 : Word) : Prop := opcodeNumber w0 = 0 ∨ 0x0D ≤ opcodeNumber w0

/-- How many low bits of `w0` are reserved in each assigned format (R93 to R104). -/
def reservedBits (n : Nat) : Nat :=
  if n = 0x01 then 21 else if n = 0x02 ∨ n = 0x07 then 23 else if n = 0x03 ∨ n = 0x04 then 22 else 24

/-- The opcode is assigned and a reserved bit is 1, or SET_ID has SHF = 11 (R108 cases b and c). -/
abbrev formatIllegal (w0 : Word) : Prop :=
  ¬ opcodeUnassigned w0 ∧
    (w0.toNat % 2 ^ reservedBits (opcodeNumber w0) ≠ 0 ∨ (opcodeNumber w0 = 0x01 ∧ w0.toNat / 2 ^ 21 % 4 = 3))

/-- How many bit-field operands the format of an assigned opcode describes (R93 to R104, R109). -/
def operandsOf (w0 : Word) : Nat :=
  if opcodeNumber w0 = 0x01 ∨ opcodeNumber w0 = 0x03 ∨ opcodeNumber w0 = 0x06 then 1
  else if opcodeNumber w0 = 0x04 then w0.toNat / 2 ^ 23 % 2 + w0.toNat / 2 ^ 22 % 2
  else 0

/-- One bit: 1 for true (R11). -/
def bit (p : Bool) : Bits := [p]

/-- The wire bits of a packet type (R82). -/
def typeBit (pt : PacketType) : Bool := pt = .telecommand

/-- The wire bit of a secondary-header flag (R83). -/
def flagBit (f : SecHdrFlag) : Bool := f = .present

/-- The two wire bits of the sequence flags (R85). -/
def seqBits : SeqFlags → Bits
  | .continuation => [false, false]
  | .first => [false, true]
  | .last => [true, false]
  | .unsegmented => [true, true]

/-- The bits of a secondary header: the time code, then the ancillary part (R88, R126). -/
def headerBits (h : SecHdr) : Bits := h.tc.getD [] ++ h.anc.getD []

/-- The identification BUILD uses: with IDLE set, the idle one of the same packet type (R172). -/
def effective (s : State) (i : Ident) : Ident := if s.idle then ⟨i.pt, .idle, List.replicate 11 true⟩ else i

/-- The secondary-header bits of the data field: those of the held header when the flag is Present, else none (R174). -/
def attachedBits (s : State) (i : Ident) : Bits :=
  if (effective s i).shf = .present then (s.shSlot.map headerBits).getD [] else []

/-- The user data of the data field: the held one, or one zero octet (R129, R174). -/
def userBits (s : State) : Bits := s.udSlot.getD (List.replicate 8 false)

/-- L, the data-field length in bits (R175). -/
def dataBits (s : State) (i : Ident) : Nat := (attachedBits s i).length + (userBits s).length

/-- ID_SLOT or SC_SLOT is none (R171). -/
abbrev fieldMissing (s : State) : Prop := s.idSlot = none ∨ s.scSlot = none

/-- The flag after step b is Present, and the held header is none or of length 0 (R173). -/
abbrev headerInsubstantial (s : State) (i : Ident) : Prop :=
  (effective s i).shf = .present ∧ (s.shSlot.map headerBits).getD [] = []

/-- The wire image of a packet (R80 to R88): version, type, flag, APID, sequence flags, count, data length, secondary
header, user data. -/
def wireImage (i : Ident) (c : SeqCtl) (header user : Bits) : Bits :=
  [false, false, false] ++ bit (typeBit i.pt) ++ bit (flagBit i.shf) ++ i.apid ++ seqBits c.sf ++ c.count ++
    bitsOf 16 ((header.length + user.length) / 8 - 1) ++ header ++ user

/-- The first error of R232 that applies to a command, as its code; 0 when none does. BUILD runs with
OCTET_ALIGN_CHECK = true (R8). -/
def firstError (i : Instr) (s : State) : Nat :=
  match i with
  | .illegal _ _ => 0x0A
  | .setId _ _ apid => if builderConsumed s then 0x08 else if apid.length ≠ 11 then 0x05 else 0
  | .setSeq _ count => if builderConsumed s then 0x08 else if count.length ≠ 14 then 0x06 else 0
  | .setIdIdle _ => if builderConsumed s then 0x08 else 0
  | .setSecHdr _ _ => if builderConsumed s then 0x08 else 0
  | .clrSecHdr => if builderConsumed s then 0x08 else 0
  | .setUserData _ => if builderConsumed s then 0x08 else 0
  | .setIdle _ => if builderConsumed s then 0x08 else 0
  | .build =>
    if builderConsumed s then 0x08
    else
      match s.idSlot, s.scSlot with
      | some i, some _ =>
        if headerInsubstantial s i then 0x02
        else if dataBits s i > 524288 then 0x03
        else if (userBits s).length < 8 then 0x04
        else if dataBits s i % 8 ≠ 0 then 0x07
        else 0
      | _, _ => 0x01
  | .pktLen => if s.pkt = none then 0x09 else 0
  | .pktSerialize => if s.pkt = none then 0x09 else 0
  | .newBuilder => 0
  | .getStatus => 0

end Sys2Proof.Claims

open Sys2Proof Sys2Proof.Machine Sys2Proof.Claims

/-! ### Encoding -/

/-- R109, R91: the decoder reads back every well-formed command from its own words, whatever follows them. -/
def Obligations.DecodeEncodeGivesBackCommand : Prop :=
  ∀ (i : Instr) (rest : List Word), i.wellFormed = true → decode (encode i ++ rest) = .ok (i, rest)

/-- Words written out from the formats of R93 to R104 decode to their commands. -/
def Obligations.SpecWordsDecodeToCommands : Prop :=
  decode [0x01A00000, 0x0000000B, 0x24600000] =
      .ok (.setId .telecommand .present
        [false, false, true, false, false, true, false, false, false, true, true], []) ∧
    decode [0x02800000] = .ok (.setIdIdle .telecommand, []) ∧
    decode [0x03400000, 0x00000003, 0xA0000000] = .ok (.setSeq .first [true, false, true], []) ∧
    decode [0x04400000, 0x00000008, 0xC3000000] =
      .ok (.setSecHdr none (some [true, true, false, false, false, false, true, true]), []) ∧
    decode [0x07800000, 0x0A000000] = .ok (.setIdle true, [0x0A000000]) ∧
    decode [0x0D000000, 0x09000000] = .ok (.illegal 0x0D000000 [], [0x09000000])

/-- R110's example: the line and its encoding. -/
def Obligations.AssemblerExampleEncodes : Prop :=
  ∃ i, assemble "SET_ID TC, PRESENT, 11'h123" = some i ∧ encode i = [0x01A00000, 0x0000000B, 0x24600000] ∧
    decode [0x01A00000, 0x0000000B, 0x24600000] = .ok (i, [])

/-- R109: a decoded command is well-formed, and it took from the stream exactly as many words as its length. -/
def Obligations.DecodedCommandsAreWellFormedAndMeasured : Prop :=
  ∀ (ws rest : List Word) (i : Instr), decode ws = .ok (i, rest) →
    i.wellFormed = true ∧ ∃ taken, ws = taken ++ rest ∧ taken.length = commandWords i

/-- R71: words that come after a whole command do not change how it decodes. -/
def Obligations.LaterWordsDoNotChangeDecoding : Prop :=
  ∀ (ws rest more : List Word) (i : Instr), decode ws = .ok (i, rest) → decode (ws ++ more) = .ok (i, rest ++ more)

/-- R91: a bit-field operand is the first L bits its payload words carry, bit 31 first; the unused low-order bits of the
last word are ignored; L = 0 has a length word only. -/
def Obligations.OperandIsFirstBitsOfPayload : Prop :=
  ∀ (len : Word) (payload rest : List Word), payload.length = (len.toNat + 31) / 32 →
    recvBF (len :: (payload ++ rest)) = .ok ((payload.flatMap fun w => bitsOf 32 w.toNat).take len.toNat, rest) ∧
      ((payload.flatMap fun w => bitsOf 32 w.toNat).take len.toNat).length = len.toNat

/-- R108: which commands are illegal, what they consume, and that they change nothing but LAST_STATUS and answer
IllegalCommand. -/
def Obligations.IllegalCommandsAreRefusedWhole : Prop :=
  (∀ (w0 : Word) (ws : List Word), opcodeUnassigned w0 → decode (w0 :: ws) = .ok (.illegal w0 [], ws)) ∧
    (∀ (w0 : Word) (ws rest : List Word) (operands : List Bits), formatIllegal w0 →
      recvOperands (operandsOf w0) ws = .ok (operands, rest) →
      decode (w0 :: ws) = .ok (.illegal w0 operands, rest)) ∧
    (∀ (w0 w : Word) (ws rest : List Word) (operands : List Bits),
      decode (w0 :: ws) = .ok (.illegal w operands, rest) → w = w0 ∧ (opcodeUnassigned w0 ∨ formatIllegal w0)) ∧
    ∀ (w : Word) (operands : List Bits) (s : State), exec (.illegal w operands) s = .next (finished 0x0A [] s)

/-- R66: on a channel carried as bytes, the most significant byte of a word first, a command's bytes decode to it. -/
def Obligations.ByteStreamCarriesCommands : Prop :=
  (∀ w : Word, wordBits w = bitsOf 32 w.toNat ∧ wordBytes w =
    [BitVec.ofNat 8 (w.toNat / 2 ^ 24), BitVec.ofNat 8 (w.toNat / 2 ^ 16), BitVec.ofNat 8 (w.toNat / 2 ^ 8),
      BitVec.ofNat 8 w.toNat]) ∧
    ∀ (i : Instr) (more : List Byte), i.wellFormed = true →
      decodeBytes (encodeBytes i ++ more) = .ok (i, (bytesWords more).1, (bytesWords more).2)

/-- R11: `bitsOf_N(v)` has N bits, most significant first, and `valOf(bitsOf_N(v)) = v`. -/
def Obligations.BitFieldsAreMostSignificantFirst : Prop :=
  ∀ n v : Nat, v < 2 ^ n →
    (bitsOf n v).length = n ∧ (∀ k, k < n → (bitsOf n v)[k]? = some (v / 2 ^ (n - 1 - k) % 2 == 1)) ∧
      valOf (bitsOf n v) = v

/-! ### One step -/

/-- R68, R69: with the last response accepted and a whole command at the head of the command channel, one step performs
exactly that command on the state whose channel starts after it. -/
def Obligations.StepPerformsDecodedCommand : Prop :=
  ∀ (s : State) (i : Instr) (rest : List Word), s.outbox = [] → decode s.cmdChan = .ok (i, rest) →
    step s = exec i { s with cmdChan := rest }

/-- While a response is pending, a step gives its next word to the response channel, in order (R205, R247), and changes
nothing else. THE MODEL'S READING (log 1, DEDUCED): that sending takes one step a word, exactly one word a step. -/
def Obligations.StepSendsPendingResponse : Prop :=
  ∀ (s : State) (w : Word) (more : List Word), s.outbox = w :: more → s.respChan.length < Config.respCapacity →
    step s = .next { s with outbox := more, respChan := s.respChan ++ [w] }

/-- The block has no step exactly when a response waits for room, no command has come, or a command is incomplete (R245,
R247, R249); it never refuses. THE MODEL'S READING: a wait is a named fault (log 4, DEDUCED) and the response channel has
one fixed capacity (log 2, DESIGN CHOICE). -/
def Obligations.BlockStopsExactlyWhenItWaits : Prop :=
  ∀ s : State,
    (step s = .fault .responseFull ↔ s.outbox ≠ [] ∧ Config.respCapacity ≤ s.respChan.length) ∧
      (step s = .fault .noCommand ↔ s.outbox = [] ∧ s.cmdChan = []) ∧
      (step s = .fault .incompleteCommand ↔
        s.outbox = [] ∧ s.cmdChan ≠ [] ∧ ∀ i rest, decode s.cmdChan ≠ .ok (i, rest)) ∧
      (∀ f, step s = .fault f → f ≠ .dataLengthRange) ∧ ∀ r, step s ≠ .refused r

/-- R105, R205: every command answers a next state with exactly one status word, first, made of the status code, BSTATE
and PKT_VALID after it, bits 31:11 zero; only PKT_LEN and PKT_SERIALIZE append payload, on success; neither channel
moves. CODE is LAST_STATUS after the command, for GET_STATUS too. -/
def Obligations.EveryCommandAnswersOneStatusWord : Prop :=
  ∀ (i : Instr) (s : State), ∃ (t : State) (payload : List Word), exec i s = .next t ∧
    t.outbox = s.outbox ++ answerWord t.lastStatus.toNat t :: payload ∧
    (payload ≠ [] ↔ (i = .pktLen ∨ i = .pktSerialize) ∧ s.pkt ≠ none) ∧
    t.cmdChan = s.cmdChan ∧ t.respChan = s.respChan

/-! ### Setters -/

/-- R229: a setter or BUILD on a consumed builder answers BuilderConsumed and changes nothing but LAST_STATUS. -/
def Obligations.ConsumedBuilderRefusesSettersAndBuild : Prop :=
  ∀ (i : Instr) (s : State), isSetter i ∨ i = .build → builderConsumed s → exec i s = .next (finished 0x08 [] s)

/-- R151: SET_ID. -/
def Obligations.SetIdStoresOrRejectsIdentification : Prop :=
  ∀ (pt : PacketType) (shf : SecHdrFlag) (apid : Bits) (s : State),
    (builderConsumed s → exec (.setId pt shf apid) s = .next (finished 0x08 [] s)) ∧
      (builderOpen s → apid.length ≠ 11 → exec (.setId pt shf apid) s = .next (finished 0x05 [] s)) ∧
      (builderOpen s → apid.length = 11 →
        exec (.setId pt shf apid) s =
          .next (finished 0x00 [] { s with idSlot := some ⟨pt, shf, apid⟩, bstate := .populated }))

/-- R152: SET_ID_IDLE. -/
def Obligations.SetIdIdleStoresIdleIdentification : Prop :=
  ∀ (pt : PacketType) (s : State),
    (builderConsumed s → exec (.setIdIdle pt) s = .next (finished 0x08 [] s)) ∧
      (builderOpen s →
        exec (.setIdIdle pt) s =
          .next (finished 0x00 []
            { s with idSlot := some ⟨pt, .idle, List.replicate 11 true⟩, bstate := .populated }))

/-- R153: SET_SEQ. -/
def Obligations.SetSeqStoresOrRejectsSequenceControl : Prop :=
  ∀ (sf : SeqFlags) (count : Bits) (s : State),
    (builderConsumed s → exec (.setSeq sf count) s = .next (finished 0x08 [] s)) ∧
      (builderOpen s → count.length ≠ 14 → exec (.setSeq sf count) s = .next (finished 0x06 [] s)) ∧
      (builderOpen s → count.length = 14 →
        exec (.setSeq sf count) s =
          .next (finished 0x00 [] { s with scSlot := some ⟨sf, count⟩, bstate := .populated }))

/-- R154, R155: SET_SEC_HDR and CLR_SEC_HDR. -/
def Obligations.SecondaryHeaderSettersReplaceWholeHeader : Prop :=
  ∀ (tc anc : Option Bits) (s : State),
    (builderConsumed s →
      exec (.setSecHdr tc anc) s = .next (finished 0x08 [] s) ∧ exec .clrSecHdr s = .next (finished 0x08 [] s)) ∧
      (builderOpen s →
        exec (.setSecHdr tc anc) s =
          .next (finished 0x00 [] { s with shSlot := some ⟨tc, anc⟩, bstate := .populated }) ∧
        exec .clrSecHdr s = .next (finished 0x00 [] { s with shSlot := none, bstate := .populated }))

/-- R156: SET_USER_DATA. -/
def Obligations.SetUserDataStoresAnyLength : Prop :=
  ∀ (ud : Bits) (s : State),
    (builderConsumed s → exec (.setUserData ud) s = .next (finished 0x08 [] s)) ∧
      (builderOpen s →
        exec (.setUserData ud) s = .next (finished 0x00 [] { s with udSlot := some ud, bstate := .populated }))

/-- R157: SET_IDLE. -/
def Obligations.SetIdleStoresFlag : Prop :=
  ∀ (b : Bool) (s : State),
    (builderConsumed s → exec (.setIdle b) s = .next (finished 0x08 [] s)) ∧
      (builderOpen s →
        exec (.setIdle b) s = .next (finished 0x00 [] { s with idle := b, bstate := .populated }))

/-! ### BUILD -/

/-- R171: step a, and that nothing else answers MandatoryFieldNotPresent. -/
def Obligations.BuildNeedsMandatoryFields : Prop :=
  ∀ s : State, builderOpen s →
    (fieldMissing s →
      ∃ t, exec .build s = .next t ∧ t.bstate = .failed ∧ t.pkt = s.pkt ∧ t.lastStatus = 0x01 ∧
        t.outbox = s.outbox ++ [answerWord 0x01 t]) ∧
      (¬ fieldMissing s → ∃ t, exec .build s = .next t ∧ t.lastStatus ≠ 0x01)

/-- R173: step d, on the flag after the idle override, and that nothing else answers SecondaryHeaderNotPresent. -/
def Obligations.BuildNeedsSubstantiveSecondaryHeader : Prop :=
  ∀ (s : State) (i : Ident) (c : SeqCtl), builderOpen s → s.idSlot = some i → s.scSlot = some c →
    (headerInsubstantial s i →
      ∃ t, exec .build s = .next t ∧ t.bstate = .failed ∧ t.pkt = s.pkt ∧ t.lastStatus = 0x02 ∧
        t.outbox = s.outbox ++ [answerWord 0x02 t]) ∧
      (¬ headerInsubstantial s i → ∃ t, exec .build s = .next t ∧ t.lastStatus ≠ 0x02)

/-- R176: step g compares bits and comes before the user-data minimum; 524288 bits pass. -/
def Obligations.BuildRejectsOversizedDataField : Prop :=
  ∀ (s : State) (i : Ident) (c : SeqCtl), builderOpen s → s.idSlot = some i → s.scSlot = some c →
    ¬ headerInsubstantial s i →
    (dataBits s i > 524288 →
      ∃ t, exec .build s = .next t ∧ t.bstate = .failed ∧ t.pkt = s.pkt ∧ t.lastStatus = 0x03 ∧
        t.outbox = s.outbox ++ [answerWord 0x03 t]) ∧
      (dataBits s i ≤ 524288 → ∃ t, exec .build s = .next t ∧ t.lastStatus ≠ 0x03)

/-- R177: step j, on the user data alone. -/
def Obligations.BuildRejectsShortUserData : Prop :=
  ∀ (s : State) (i : Ident) (c : SeqCtl), builderOpen s → s.idSlot = some i → s.scSlot = some c →
    ¬ headerInsubstantial s i → dataBits s i ≤ 524288 →
    ((userBits s).length < 8 →
      ∃ t, exec .build s = .next t ∧ t.bstate = .failed ∧ t.pkt = s.pkt ∧ t.lastStatus = 0x04 ∧
        t.outbox = s.outbox ++ [answerWord 0x04 t]) ∧
      (8 ≤ (userBits s).length → ∃ t, exec .build s = .next t ∧ t.lastStatus ≠ 0x04)

/-- R178: with OCTET_ALIGN_CHECK on, this hardware's value, a fractional octet is an error; with it off the check is
skipped, the packet has 48 + L bits and its data length is floor-divided. -/
def Obligations.FractionalOctetsUnderBothReadings : Prop :=
  ∀ (s : State) (i : Ident) (c : SeqCtl), builderOpen s → s.idSlot = some i → s.scSlot = some c →
    ¬ headerInsubstantial s i → dataBits s i ≤ 524288 → 8 ≤ (userBits s).length → dataBits s i % 8 ≠ 0 →
    (∃ t, exec .build s = .next t ∧ t.bstate = .failed ∧ t.pkt = s.pkt ∧ t.lastStatus = 0x07 ∧
      t.outbox = s.outbox ++ [answerWord 0x07 t]) ∧
      ∃ t p, execBuildWith false s = .next t ∧ t.bstate = .built ∧ t.lastStatus = 0x00 ∧
        t.outbox = s.outbox ++ [answerWord 0x00 t] ∧ t.pkt = some p ∧
        p.bits = wireImage (effective s i) c (attachedBits s i) (userBits s) ∧
        (i.apid.length = 11 → c.count.length = 14 → p.bits.length = 48 + dataBits s i)

/-- R180: when no check fails, BUILD stores the packet's wire image, exactly 48 + L bits, replacing any packet held before,
and answers OK. -/
def Obligations.BuildCommitsWireImage : Prop :=
  ∀ (s : State) (i : Ident) (c : SeqCtl), builderOpen s → s.idSlot = some i → s.scSlot = some c →
    ¬ headerInsubstantial s i → dataBits s i ≤ 524288 → 8 ≤ (userBits s).length → dataBits s i % 8 = 0 →
    ∃ t p, exec .build s = .next t ∧ t.bstate = .built ∧ t.lastStatus = 0x00 ∧
      t.outbox = s.outbox ++ [answerWord 0x00 t] ∧ t.pkt = some p ∧
      p.bits = wireImage (effective s i) c (attachedBits s i) (userBits s) ∧
      (i.apid.length = 11 → c.count.length = 14 → p.bits.length = 48 + dataBits s i)

/-- R172: with IDLE set, BUILD needs no secondary header and attaches none, and the packet begins with version 000, the
held packet type, flag 0 and eleven ones, whatever identification was set. -/
def Obligations.IdleOverrideReplacesIdentification : Prop :=
  ∀ (s : State) (i : Ident) (c : SeqCtl), builderOpen s → s.idle = true → s.idSlot = some i → s.scSlot = some c →
    8 ≤ (userBits s).length → (userBits s).length ≤ 524288 → (userBits s).length % 8 = 0 →
    ∃ t p, exec .build s = .next t ∧ t.bstate = .built ∧ t.pkt = some p ∧
      p.bits = wireImage ⟨i.pt, .idle, List.replicate 11 true⟩ c [] (userBits s) ∧
      p.bits.take 16 = [false, false, false, typeBit i.pt, false] ++ List.replicate 11 true

/-- R181: a BUILD that answers an error leaves the builder Failed and the packet as it was, and every later setter and
BUILD answers BuilderConsumed until NEW_BUILDER. -/
def Obligations.FailedBuildConsumesBuilder : Prop :=
  ∀ s t : State, builderOpen s → exec .build s = .next t → t.lastStatus ≠ 0x00 →
    t.bstate = .failed ∧ t.pkt = s.pkt ∧
      (∀ i, isSetter i ∨ i = .build → exec i t = .next (finished 0x08 [] t)) ∧
      (∀ i u, i ≠ .newBuilder → exec i t = .next u → u.bstate = .failed) ∧
      ∃ u, exec .newBuilder t = .next u ∧ builderOpen u

/-- R179: the data length is asked for only within 1 to 65536 octets, under both values of OCTET_ALIGN_CHECK, so BUILD
never reaches the fault of R130. -/
def Obligations.BuildAsksDataLengthInRange : Prop :=
  ∀ (align : Bool) (s : State),
    (∀ p, planBuild align s = .ok p → 1 ≤ dataFieldLen p.data / 8 ∧ dataFieldLen p.data / 8 ≤ 65536) ∧
      ∃ t, execBuildWith align s = .next t

/-- R232: the code a command reports is that of the first error in the order given. -/
def Obligations.FirstErrorInOrderIsReported : Prop :=
  ∀ (i : Instr) (s t : State), i ≠ .getStatus → exec i s = .next t → t.lastStatus = BitVec.ofNat 8 (firstError i s)

/-- BUILD leaves the builder slots as they were. THE MODEL'S CHOICE (log 5): while the builder is consumed the spec leaves
them unspecified (R40). -/
def Obligations.BuildKeepsSlotsInThisModel : Prop :=
  ∀ s t : State, exec .build s = .next t →
    t.idSlot = s.idSlot ∧ t.scSlot = s.scSlot ∧ t.shSlot = s.shSlot ∧ t.udSlot = s.udSlot ∧ t.idle = s.idle ∧
      t.cmdChan = s.cmdChan ∧ t.respChan = s.respChan

/-- R41, R181: the held packet changes only by a BUILD that ends with the builder Built and status OK, on a builder that was
open. -/
def Obligations.PacketChangesOnlyBySuccessfulBuild : Prop :=
  ∀ (i : Instr) (s t : State), exec i s = .next t → t.pkt ≠ s.pkt →
    i = .build ∧ builderOpen s ∧ t.bstate = .built ∧ t.lastStatus = 0x00

/-- R34: what may move BSTATE, and where to. -/
def Obligations.BuilderStateMoves : Prop :=
  ∀ (i : Instr) (s t : State), exec i s = .next t → t.bstate ≠ s.bstate →
    (isSetter i ∧ s.bstate = .empty ∧ t.bstate = .populated) ∨
      (i = .build ∧ builderOpen s ∧ builderConsumed t) ∨ (i = .newBuilder ∧ t.bstate = .empty)

/-! ### Control and output -/

/-- R200: NEW_BUILDER. -/
def Obligations.NewBuilderEmptiesBuilderKeepsPacket : Prop :=
  ∀ s : State,
    exec .newBuilder s =
      .next (finished 0x00 []
        { s with bstate := .empty, idSlot := none, scSlot := none, shSlot := none, udSlot := none, idle := false })

/-- R201: PKT_LEN, for a packet of at most 524336 bits (R33). -/
def Obligations.PktLenAnswersLengthInBits : Prop :=
  ∀ s : State,
    (s.pkt = none → exec .pktLen s = .next (finished 0x09 [] s)) ∧
      ∀ p, s.pkt = some p → p.bits.length ≤ 524336 →
        ∃ n : Word, exec .pktLen s = .next (finished 0x00 [n] s) ∧ n.toNat = p.bits.length

/-- R202: PKT_SERIALIZE answers the length and ceil(N/32) words that carry the packet's bits and then zero filler, for a
packet of at most 524336 bits (R33). -/
def Obligations.PktSerializeAnswersPacketBits : Prop :=
  ∀ s : State,
    (s.pkt = none → exec .pktSerialize s = .next (finished 0x09 [] s)) ∧
      ∀ p, s.pkt = some p → p.bits.length ≤ 524336 →
        ∃ (n : Word) (ws : List Word), exec .pktSerialize s = .next (finished 0x00 (n :: ws) s) ∧
          n.toNat = p.bits.length ∧ ws.length = (p.bits.length + 31) / 32 ∧
          (ws.flatMap fun w => bitsOf 32 w.toNat) =
            p.bits ++ List.replicate (32 * ws.length - p.bits.length) false

/-- R203: GET_STATUS answers LAST_STATUS and writes no state. -/
def Obligations.GetStatusAnswersWithoutWriting : Prop :=
  ∀ s : State,
    exec .getStatus s = .next { s with outbox := s.outbox ++ [answerWord s.lastStatus.toNat s] }

/-! ### Packets -/

/-- R130: the data-length field is `bitsOf_16(size - 1)` within 1 to 65536, 16 bits whose value is `size - 1`, and asked
for outside it gives nothing. -/
def Obligations.DataLengthFieldHoldsSizeMinusOne : Prop :=
  ∀ size : Nat,
    (1 ≤ size → size ≤ 65536 →
      ∃ b, dataLengthField size = some b ∧ b = bitsOf 16 (size - 1) ∧ b.length = 16 ∧ valOf b = size - 1) ∧
      (size = 0 ∨ 65536 < size → dataLengthField size = none) ∧
      ∀ (p : BuildPlan) (s : State), dataFieldLen p.data / 8 = size → size = 0 ∨ 65536 < size →
        commitBuild p s = .fault .dataLengthRange

/-- R80: the first 48 bits of a packet are the primary header, its fields at their offsets. -/
def Obligations.PrimaryHeaderLayout : Prop :=
  ∀ (i : Ident) (c : SeqCtl) (dl : Bits) (d : DataField), i.apid.length = 11 → c.count.length = 14 → dl.length = 16 →
    (serialize (packPrimary i c dl) d).take 48 = packPrimary i c dl ∧
      (serialize (packPrimary i c dl) d).drop 48 = packDataField d ∧
      (serialize (packPrimary i c dl) d).length = packetLen d ∧
      (packPrimary i c dl).length = 48 ∧
      (packPrimary i c dl).take 3 = [false, false, false] ∧
      (packPrimary i c dl)[3]? = some (typeBit i.pt) ∧
      (packPrimary i c dl)[4]? = some (flagBit i.shf) ∧
      ((packPrimary i c dl).drop 5).take 11 = i.apid ∧
      ((packPrimary i c dl).drop 16).take 2 = seqBits c.sf ∧
      ((packPrimary i c dl).drop 18).take 14 = c.count ∧
      (packPrimary i c dl).drop 32 = dl

/-- R89, R132: every packet is 56 to 524336 bits, a whole number of octets, and its Data Length field read back as a
number is the data-field length in octets minus one. -/
def Obligations.PacketLengthAgreesWithDataLength : Prop :=
  ∀ p : Packet, p.wf →
    56 ≤ p.bits.length ∧ p.bits.length ≤ 524336 ∧
      p.bits.length = 48 + 8 * (valOf ((p.bits.drop 32).take 16) + 1)

/-- R122, R124: the packed identification and sequence control. -/
def Obligations.PackedFieldsHaveTheirBits : Prop :=
  ∀ (i : Ident) (c : SeqCtl), i.apid.length = 11 → c.count.length = 14 →
    packIdent i = typeBit i.pt :: flagBit i.shf :: i.apid ∧ (packIdent i).length = 13 ∧
      packSeq c = seqBits c.sf ++ c.count ∧ (packSeq c).length = 16

/-- R125 to R128: the data field is the time code, the ancillary part and the user data, in that order with no gap, and
its length is the sum of theirs. -/
def Obligations.DataFieldIsHeaderThenUserData : Prop :=
  ∀ (sh : Option SecHdr) (ud : Bits),
    packDataField ⟨sh, ud⟩ = (sh.map headerBits).getD [] ++ ud ∧
      dataFieldLen ⟨sh, ud⟩ = ((sh.map headerBits).getD []).length + ud.length ∧
      ∀ h, packSecHdr h = headerBits h ∧ secHdrLen h = (h.tc.getD []).length + (h.anc.getD []).length

/-- R65: octet k is bits 8k to 8k+7, bit 8k the most significant. -/
def Obligations.OctetsAreMostSignificantFirst : Prop :=
  ∀ (b : Bits) (k : Nat), 8 * k + 8 ≤ b.length → bitsOf 8 (octetAt b k).toNat = (b.drop (8 * k)).take 8

/-! ### The machine as a whole -/

/-- The state after reset, from any state: the values of R45, no partial command and no pending response word (R240). THE
MODEL'S READING (log 9, DEDUCED, unsafe): the command channel is empty after reset, so whole commands that waited in it
are discarded too; the spec does not name them. -/
def Obligations.ResetValues : Prop :=
  ∀ s : State, hostReset s = State.reset ∧ State.reset.bstate = .empty ∧ State.reset.idSlot = none ∧
    State.reset.scSlot = none ∧ State.reset.shSlot = none ∧ State.reset.udSlot = none ∧ State.reset.idle = false ∧
    State.reset.pkt = none ∧ State.reset.lastStatus = 0x00 ∧ State.reset.cmdChan = [] ∧ State.reset.outbox = [] ∧
    State.reset.respChan = []

/-- The invariant holds after reset. -/
def Obligations.ResetMeetsInvariant : Prop := State.reset.Inv

/-- R33: every step keeps the invariant. -/
def Obligations.StepKeepsInvariant : Prop := ∀ s t : State, s.Inv → step s = .next t → t.Inv

/-- What the host does keeps the invariant, and touches nothing but the channels unless it is reset (R250). THE MODEL'S
CHOICE (log 11): the host's actions are functions on the state outside `step`. -/
def Obligations.HostKeepsInvariantAndBlockState : Prop :=
  ∀ (s : State) (w : Word), s.Inv →
    (hostSend w s).Inv ∧ hostSend w s = { s with cmdChan := s.cmdChan ++ [w] } ∧
      (∀ x u, hostRead s = some (x, u) → u.Inv ∧ s.respChan = x :: u.respChan ∧ u = { s with respChan := u.respChan }) ∧
      (hostReset s).Inv

/-- R40: the slots of a consumed builder are never observable: from two states that differ in them at most, any schedule
of block steps and host actions has the host read the same words. -/
def Obligations.ConsumedSlotsAreUnobservable : Prop :=
  ∀ (s t : State) (got : List Word) (es : List Event), builderConsumed s → agreeOutsideSlots s t →
    (Session.run es ⟨s, got⟩).got = (Session.run es ⟨t, got⟩).got

/-- R69, R205, R251: whatever the schedule without reset, a session in which the host sends the words of a list of
commands and which has ended gives the host exactly the answers of those commands, performed one after another, and
leaves the state they leave. -/
def Obligations.HostReadsAnswersInOrder : Prop :=
  ∀ (is : List Instr) (es : List Event) (s : State) (got : List Word),
    (∀ i ∈ is, i.wellFormed = true) → Event.reset ∉ es → sentWords es = is.flatMap encode →
    s.cmdChan = [] → s.outbox = [] → s.respChan = [] → (Session.run es ⟨s, got⟩).finished →
    (Session.run es ⟨s, got⟩).got = got ++ (performAll is s).2 ∧ (Session.run es ⟨s, got⟩).block = (performAll is s).1

/-- Such a session can always be brought to its end (R249, R251). THE MODEL'S CHOICE (log 2, DESIGN CHOICE, unsafe): the
response channel has room for at least one word; without that the statement would be false. Beyond that it holds for
every capacity. -/
def Obligations.EverySessionCanFinish : Prop :=
  ∀ (is : List Instr) (s : State) (got : List Word), (∀ i ∈ is, i.wellFormed = true) →
    s.cmdChan = [] → s.outbox = [] → s.respChan = [] →
    ∃ es : List Event, Event.reset ∉ es ∧ sentWords es = is.flatMap encode ∧ (Session.run es ⟨s, got⟩).finished
end

