-- ==== Sys2Proof/Laws/Bits.lean ====
section
/-! SUPPORT. Lengths of bit sequences and word lists. -/

namespace Sys2Proof

@[simp] theorem bitsOf_length (n v : Nat) : (bitsOf n v).length = n := by
  induction n with
  | zero => rfl
  | succ n ih => simp [bitsOf, ih]

@[simp] theorem zeros_length (n : Nat) : (zeros n).length = n := List.length_replicate

@[simp] theorem ones_length (n : Nat) : (ones n).length = n := List.length_replicate

@[simp] theorem wordBits_length (w : Word) : (wordBits w).length = 32 := bitsOf_length 32 w.toNat

@[simp] theorem unpackWords_nil : unpackWords [] = [] := rfl

@[simp] theorem unpackWords_cons (w : Word) (ws : List Word) : unpackWords (w :: ws) = wordBits w ++ unpackWords ws := rfl

@[simp] theorem unpackWords_length (ws : List Word) : (unpackWords ws).length = 32 * ws.length := by
  induction ws with
  | nil => rfl
  | cons w ws ih => simp [ih]; omega

@[simp] theorem chunkWords_length (n : Nat) (b : Bits) : (chunkWords n b).length = n := by
  induction n generalizing b with
  | zero => rfl
  | succ n ih => simp [chunkWords, ih]

@[simp] theorem packWords_length (b : Bits) : (packWords b).length = wordsFor b.length := chunkWords_length _ _

/-- The payload words are enough, and the last one is used. -/
theorem wordsFor_bounds (n : Nat) : n ≤ 32 * wordsFor n ∧ 32 * wordsFor n < n + 32 := by
  unfold wordsFor
  omega

theorem valOf_lt (b : Bits) : valOf b < 2 ^ b.length := by
  induction b with
  | nil => simp [valOf]
  | cons x xs ih => cases x <;> simp [valOf, pow_succ] <;> omega

theorem valOf_append (a b : Bits) : valOf (a ++ b) = valOf a * 2 ^ b.length + valOf b := by
  induction a with
  | nil => simp [valOf]
  | cons x xs ih => simp [valOf, ih, pow_add]; ring

/-- A word carries 32 bits and no bit is lost on the way there. -/
theorem bitsWord_toNat (b : Bits) (h : b.length ≤ 32) : (bitsWord b).toNat = valOf b := by
  have hv := valOf_lt b
  have hp : 2 ^ b.length ≤ 2 ^ 32 := Nat.pow_le_pow_right (by norm_num) h
  simp only [bitsWord, BitVec.toNat_ofNat]
  exact Nat.mod_eq_of_lt (by omega)

/-- The bits of a number below its width are all that `bitsOf` reads. -/
theorem bitsOf_congr {n v w : Nat} (h : ∀ k, k < n → v.testBit k = w.testBit k) : bitsOf n v = bitsOf n w := by
  induction n with
  | zero => rfl
  | succ n ih =>
    simp only [bitsOf]
    rw [h n (by omega), ih fun k hk => h k (by omega)]

/-- A bit sequence is the bits of its value. -/
theorem bitsOf_valOf (b : Bits) : bitsOf b.length (valOf b) = b := by
  induction b with
  | nil => rfl
  | cons x xs ih =>
    have hv := valOf_lt xs
    simp only [List.length_cons, bitsOf, valOf]
    congr 1
    · rw [Nat.testBit_eq_decide_div_mod_eq]
      cases x <;> simp [Nat.add_div_left, Nat.div_eq_of_lt hv]
    · refine (bitsOf_congr fun k hk => ?_).trans ih
      cases x
      · simp
      · simp only [Bool.toNat_true, one_mul]
        rw [Nat.testBit_two_pow_add_gt hk]

/-- 32 bits come back from the word that carries them. -/
theorem wordBits_bitsWord {b : Bits} (h : b.length = 32) : wordBits (bitsWord b) = b := by
  unfold wordBits
  rw [bitsWord_toNat b (by omega), ← h, bitsOf_valOf]

theorem unpackWords_chunkWords (n : Nat) (b : Bits) (h : b.length = 32 * n) : unpackWords (chunkWords n b) = b := by
  induction n generalizing b with
  | zero => simpa [chunkWords, eq_comm] using h
  | succ n ih =>
    rw [chunkWords, unpackWords_cons, wordBits_bitsWord (by simp; omega), ih _ (by simp; omega), List.take_append_drop]

/-- The payload words of a bit sequence carry it, and then zero filler (R91, R202). -/
theorem unpackWords_packWords (b : Bits) :
    unpackWords (packWords b) = b ++ zeros (32 * wordsFor b.length - b.length) := by
  have hb := wordsFor_bounds b.length
  exact unpackWords_chunkWords _ _ (by simp; omega)

end Sys2Proof
end

