-- ==== Sys2Proof/Laws/State.lean ====
section
/-! SUPPORT. What each named update of the state does to each field. -/

namespace Sys2Proof.Machine

section sendAnswer
variable (c : BitVec 8) (p : List Word) (s : State)
@[simp] theorem sendAnswer_bstate : (sendAnswer c p s).bstate = s.bstate := rfl
@[simp] theorem sendAnswer_idSlot : (sendAnswer c p s).idSlot = s.idSlot := rfl
@[simp] theorem sendAnswer_scSlot : (sendAnswer c p s).scSlot = s.scSlot := rfl
@[simp] theorem sendAnswer_shSlot : (sendAnswer c p s).shSlot = s.shSlot := rfl
@[simp] theorem sendAnswer_udSlot : (sendAnswer c p s).udSlot = s.udSlot := rfl
@[simp] theorem sendAnswer_idle : (sendAnswer c p s).idle = s.idle := rfl
@[simp] theorem sendAnswer_pkt : (sendAnswer c p s).pkt = s.pkt := rfl
@[simp] theorem sendAnswer_lastStatus : (sendAnswer c p s).lastStatus = s.lastStatus := rfl
@[simp] theorem sendAnswer_cmdChan : (sendAnswer c p s).cmdChan = s.cmdChan := rfl
@[simp] theorem sendAnswer_respChan : (sendAnswer c p s).respChan = s.respChan := rfl
@[simp] theorem sendAnswer_outbox : (sendAnswer c p s).outbox = s.outbox ++ statusWord c s :: p := rfl
end sendAnswer

section finish
variable (e : Status) (p : List Word) (s : State)
@[simp] theorem finish_bstate : (finish e p s).bstate = s.bstate := rfl
@[simp] theorem finish_idSlot : (finish e p s).idSlot = s.idSlot := rfl
@[simp] theorem finish_scSlot : (finish e p s).scSlot = s.scSlot := rfl
@[simp] theorem finish_shSlot : (finish e p s).shSlot = s.shSlot := rfl
@[simp] theorem finish_udSlot : (finish e p s).udSlot = s.udSlot := rfl
@[simp] theorem finish_idle : (finish e p s).idle = s.idle := rfl
@[simp] theorem finish_pkt : (finish e p s).pkt = s.pkt := rfl
@[simp] theorem finish_lastStatus : (finish e p s).lastStatus = e.code := rfl
@[simp] theorem finish_cmdChan : (finish e p s).cmdChan = s.cmdChan := rfl
@[simp] theorem finish_respChan : (finish e p s).respChan = s.respChan := rfl
@[simp] theorem finish_outbox : (finish e p s).outbox = s.outbox ++ statusWord e.code s :: p := rfl
end finish

section failBuild
variable (e : Status) (s : State)
@[simp] theorem failBuild_bstate : (failBuild e s).bstate = .failed := rfl
@[simp] theorem failBuild_idSlot : (failBuild e s).idSlot = s.idSlot := rfl
@[simp] theorem failBuild_scSlot : (failBuild e s).scSlot = s.scSlot := rfl
@[simp] theorem failBuild_shSlot : (failBuild e s).shSlot = s.shSlot := rfl
@[simp] theorem failBuild_udSlot : (failBuild e s).udSlot = s.udSlot := rfl
@[simp] theorem failBuild_idle : (failBuild e s).idle = s.idle := rfl
@[simp] theorem failBuild_pkt : (failBuild e s).pkt = s.pkt := rfl
@[simp] theorem failBuild_lastStatus : (failBuild e s).lastStatus = e.code := rfl
@[simp] theorem failBuild_cmdChan : (failBuild e s).cmdChan = s.cmdChan := rfl
@[simp] theorem failBuild_respChan : (failBuild e s).respChan = s.respChan := rfl
@[simp] theorem failBuild_outbox :
    (failBuild e s).outbox = s.outbox ++ [statusWord e.code { s with bstate := .failed }] := rfl
end failBuild

section hostSend
variable (w : Word) (s : State)
@[simp] theorem hostSend_bstate : (hostSend w s).bstate = s.bstate := rfl
@[simp] theorem hostSend_idSlot : (hostSend w s).idSlot = s.idSlot := rfl
@[simp] theorem hostSend_scSlot : (hostSend w s).scSlot = s.scSlot := rfl
@[simp] theorem hostSend_shSlot : (hostSend w s).shSlot = s.shSlot := rfl
@[simp] theorem hostSend_udSlot : (hostSend w s).udSlot = s.udSlot := rfl
@[simp] theorem hostSend_idle : (hostSend w s).idle = s.idle := rfl
@[simp] theorem hostSend_pkt : (hostSend w s).pkt = s.pkt := rfl
@[simp] theorem hostSend_lastStatus : (hostSend w s).lastStatus = s.lastStatus := rfl
@[simp] theorem hostSend_cmdChan : (hostSend w s).cmdChan = s.cmdChan ++ [w] := rfl
@[simp] theorem hostSend_outbox : (hostSend w s).outbox = s.outbox := rfl
@[simp] theorem hostSend_respChan : (hostSend w s).respChan = s.respChan := rfl
end hostSend

section withFetchWord
variable (s : State) (nbits w : Nat)
@[simp] theorem withFetchWord_bstate : (s.withFetchWord nbits w).bstate = s.bstate := rfl
@[simp] theorem withFetchWord_idSlot : (s.withFetchWord nbits w).idSlot = s.idSlot := rfl
@[simp] theorem withFetchWord_scSlot : (s.withFetchWord nbits w).scSlot = s.scSlot := rfl
@[simp] theorem withFetchWord_shSlot : (s.withFetchWord nbits w).shSlot = s.shSlot := rfl
@[simp] theorem withFetchWord_udSlot : (s.withFetchWord nbits w).udSlot = s.udSlot := rfl
@[simp] theorem withFetchWord_idle : (s.withFetchWord nbits w).idle = s.idle := rfl
@[simp] theorem withFetchWord_pkt : (s.withFetchWord nbits w).pkt = s.pkt := rfl
@[simp] theorem withFetchWord_lastStatus : (s.withFetchWord nbits w).lastStatus = s.lastStatus := rfl
@[simp] theorem withFetchWord_cmdChan : (s.withFetchWord nbits w).cmdChan = tableCommand nbits w ++ s.cmdChan := rfl
@[simp] theorem withFetchWord_outbox : (s.withFetchWord nbits w).outbox = [] := rfl
@[simp] theorem withFetchWord_respChan : (s.withFetchWord nbits w).respChan = s.respChan ++ s.outbox := rfl
end withFetchWord

end Sys2Proof.Machine
end

