-- ==== Sys2Proof/Laws/Ops.lean ====
section
/-! SUPPORT. What each shared operation can do, said once. -/

namespace Sys2Proof.Machine

theorem consumed_iff (s : State) : s.consumed = true ↔ s.bstate = .built ∨ s.bstate = .failed := by
  simp [State.consumed]

theorem not_consumed_iff (s : State) : s.consumed = false ↔ s.bstate = .empty ∨ s.bstate = .populated := by
  unfold State.consumed
  cases s.bstate <;> simp

/-- The setter frame has three outcomes (R150). -/
theorem setter_cases (body : Except Status State) (s : State) :
    (s.consumed = true ∧ setter body s = finish .builderConsumed [] s) ∨
      (s.consumed = false ∧ ∃ e, body = .error e ∧ setter body s = finish e [] s) ∨
      (s.consumed = false ∧ ∃ s', body = .ok s' ∧ setter body s = finish .ok [] { s' with bstate := .populated }) := by
  unfold setter
  cases hc : s.consumed with
  | true => exact .inl ⟨rfl, by simp⟩
  | false =>
    cases body with
    | error e => exact .inr (.inl ⟨rfl, e, rfl, by simp⟩)
    | ok s' => exact .inr (.inr ⟨rfl, s', rfl, by simp⟩)

/-- Giving a response word to the channel succeeds exactly when there is room (R247). -/
theorem sendResponse_next {w : Word} {more : List Word} {s t : State} (h : sendResponse w more s = .next t) :
    s.respChan.length < Config.respCapacity ∧ t = { s with outbox := more, respChan := s.respChan ++ [w] } := by
  unfold sendResponse at h
  split at h
  · injection h with h
    exact ⟨‹_›, h.symm⟩
  · cases h

theorem sendResponse_fault {w : Word} {more : List Word} {s : State} {f : Fault}
    (h : sendResponse w more s = .fault f) : Config.respCapacity ≤ s.respChan.length ∧ f = .responseFull := by
  unfold sendResponse at h
  split at h
  · cases h
  · injection h with h
    exact ⟨by omega, h.symm⟩

/-- Taking a command leaves everything but the command channel (R68). -/
theorem takeCommand_ok {s t : State} {i : Instr} (h : takeCommand s = .ok (i, t)) :
    ∃ rest, decode s.cmdChan = .ok (i, rest) ∧ t = { s with cmdChan := rest } := by
  unfold takeCommand at h
  split at h
  · cases h
  · injection h with h
    injection h with h₁ h₂
    subst h₁ h₂
    exact ⟨_, ‹_›, rfl⟩

/-- A step that answers a next state sent a response word or performed a command (R68, R205). -/
theorem step_cases {s t : State} (h : step s = .next t) :
    (∃ w more, s.outbox = w :: more ∧ s.respChan.length < Config.respCapacity ∧
      t = { s with outbox := more, respChan := s.respChan ++ [w] }) ∨
      (∃ i rest, s.outbox = [] ∧ decode s.cmdChan = .ok (i, rest) ∧ exec i { s with cmdChan := rest } = .next t) := by
  unfold step at h
  split at h
  · next w more hout =>
    obtain ⟨hroom, ht⟩ := sendResponse_next h
    exact .inl ⟨w, more, hout, hroom, ht⟩
  · next hout =>
    split at h
    · cases h
    · next i s' htake =>
      obtain ⟨rest, hd, rfl⟩ := takeCommand_ok htake
      exact .inr ⟨i, rest, hout, hd, h⟩

/-- Reading gives the oldest word (R69). -/
theorem hostRead_some {s u : State} {w : Word} (h : hostRead s = some (w, u)) :
    ∃ more, s.respChan = w :: more ∧ u = { s with respChan := more } := by
  unfold hostRead at h
  split at h
  · cases h
  · next w' more hr =>
    injection h with h
    injection h with h₁ h₂
    subst h₁ h₂
    exact ⟨more, hr, rfl⟩

end Sys2Proof.Machine
end

