-- ==== Sys2Proof/Laws/Build.lean ====
section
/-! SUPPORT. The packers' lengths, and what BUILD can do (42_build.md R170). -/

namespace Sys2Proof.Machine

theorem identNew_ok {pt : PacketType} {shf : SecHdrFlag} {apid : Bits} {i : Ident}
    (h : identNew pt shf apid = .ok i) : apid.length = 11 ∧ i = ⟨pt, shf, apid⟩ := by
  unfold identNew at h
  split at h
  · cases h
  · next hl =>
    injection h with h
    exact ⟨not_not.mp hl, h.symm⟩

theorem seqNew_ok {sf : SeqFlags} {count : Bits} {c : SeqCtl}
    (h : seqNew sf count = .ok c) : count.length = 14 ∧ c = ⟨sf, count⟩ := by
  unfold seqNew at h
  split at h
  · cases h
  · next hl =>
    injection h with h
    exact ⟨not_not.mp hl, h.symm⟩

@[simp] theorem packSecHdr_length (h : SecHdr) : (packSecHdr h).length = secHdrLen h := by
  obtain ⟨tc, anc⟩ := h
  cases tc <;> cases anc <;> simp [packSecHdr, secHdrLen, partLen]

@[simp] theorem packOptSecHdr_length (h : Option SecHdr) : (packOptSecHdr h).length = optSecHdrLen h := by
  cases h <;> simp [packOptSecHdr, optSecHdrLen]

@[simp] theorem packDataField_length (d : DataField) : (packDataField d).length = dataFieldLen d := by
  simp [packDataField, dataFieldLen]

theorem dataLengthField_some {n : Nat} (h₁ : 1 ≤ n) (h₂ : n ≤ 65536) :
    dataLengthField n = some (bitsOf 16 (n - 1)) := by
  simp [dataLengthField, Config.minDfOctets, Config.maxDataSize, h₁, h₂]

/-- What has passed when the data checks pass (R176 to R178). -/
theorem checkData_ok {align : Bool} {d d' : DataField} (h : checkData align d = .ok d') :
    d' = d ∧ dataFieldLen d ≤ 524288 ∧ 8 ≤ d.ud.length ∧ (align = true → dataFieldLen d % 8 = 0) := by
  unfold checkData at h
  split at h
  · cases h
  · next hmax =>
    split at h
    · cases h
    · next hmin =>
      split at h
      · cases h
      · next hal =>
        injection h with h
        simp only [Config.maxDfBits, Config.octet] at hmax hmin hal
        refine ⟨h.symm, by omega, by omega, fun ha => ?_⟩
        simpa [ha] using hal

/-- What has passed when BUILD makes a plan (R171 to R178). -/
theorem planBuild_ok {align : Bool} {s : State} {p : BuildPlan} (h : planBuild align s = .ok p) :
    ∃ i, s.idSlot = some i ∧ s.scSlot = some p.seq ∧ p.ident = idleOverride s.idle i ∧
      headerMissing p.ident s.shSlot = false ∧ p.data = attach p.ident s.shSlot s.udSlot ∧
      dataFieldLen p.data ≤ 524288 ∧ 8 ≤ p.data.ud.length ∧ (align = true → dataFieldLen p.data % 8 = 0) := by
  unfold planBuild at h
  split at h
  · next i c hi hc =>
    unfold checkBuild at h
    split at h
    · cases h
    · next hh =>
      split at h
      · cases h
      · next d hd =>
        injection h with h
        obtain ⟨rfl, h₁, h₂, h₃⟩ := checkData_ok hd
        subst h
        exact ⟨i, hi, hc, rfl, by simpa using hh, rfl, h₁, h₂, h₃⟩
  · cases h

/-- BUILD answers a next state, in one of three ways (R170). -/
theorem execBuildWith_cases (align : Bool) (s : State) :
    (s.consumed = true ∧ execBuildWith align s = .next (finish .builderConsumed [] s)) ∨
      (s.consumed = false ∧ ∃ e, planBuild align s = .error e ∧ execBuildWith align s = .next (failBuild e s)) ∨
      (s.consumed = false ∧ ∃ p, planBuild align s = .ok p ∧
        execBuildWith align s =
          .next (finish .ok []
            { s with
              pkt := some ⟨serialize (packPrimary p.ident p.seq (bitsOf 16 (dataFieldLen p.data / 8 - 1))) p.data⟩,
              bstate := .built })) := by
  unfold execBuildWith
  cases hc : s.consumed with
  | true => exact .inl ⟨rfl, by simp⟩
  | false =>
    cases hp : planBuild align s with
    | error e => exact .inr (.inl ⟨rfl, e, rfl, by simp⟩)
    | ok p =>
      obtain ⟨i, -, -, -, -, -, hmax, hud, -⟩ := planBuild_ok hp
      have hlen : p.data.ud.length ≤ dataFieldLen p.data := by unfold dataFieldLen; omega
      refine .inr (.inr ⟨rfl, p, rfl, ?_⟩)
      simp only [commitBuild, Config.octet]
      rw [dataLengthField_some (by omega) (by omega)]
      simp

end Sys2Proof.Machine
end

