-- ==== Sys2Proof/Laws/Decode.lean ====
section
/-! SUPPORT. What receiving an operand and decoding a command can do (30_encoding.md R91, R108, R109). -/

namespace Sys2Proof

/-- Receiving a bit-field operand takes its length word and its payload, and no more (R91). -/
theorem recvBF_ok {ws rest : List Word} {b : Bits} (h : recvBF ws = .ok (b, rest)) :
    ∃ (len : Word) (payload : List Word), ws = len :: (payload ++ rest) ∧ payload.length = wordsFor len.toNat ∧
      b = (unpackWords payload).take len.toNat ∧ b.length = len.toNat := by
  cases ws with
  | nil => cases h
  | cons len ws =>
    rw [recvBF] at h
    split at h
    · cases h
    · next hlen =>
      injection h with h
      injection h with h₁ h₂
      have hp : (ws.take (wordsFor len.toNat)).length = wordsFor len.toNat := by simp; omega
      have hb := wordsFor_bounds len.toNat
      refine ⟨len, ws.take (wordsFor len.toNat), by rw [← h₂, List.take_append_drop], hp, h₁.symm, ?_⟩
      rw [← h₁, List.length_take, unpackWords_length, hp]
      omega

/-- An operand whose payload is there is received, whatever follows it (R91). -/
theorem recvBF_payload {len : Word} {payload : List Word} (rest : List Word)
    (h : payload.length = wordsFor len.toNat) :
    recvBF (len :: (payload ++ rest)) = .ok ((unpackWords payload).take len.toNat, rest) := by
  rw [recvBF, if_neg (by simp [h]), ← h]
  simp

/-- Receiving `k` operands takes a stretch of the stream, one operand after another. -/
theorem recvOperands_ok {k : Nat} {ws rest : List Word} {bs : List Bits} (h : recvOperands k ws = .ok (bs, rest)) :
    bs.length = k ∧ (∀ b ∈ bs, b.length < 2 ^ 32) ∧
      ∃ taken, ws = taken ++ rest ∧ taken.length = (bs.map fun b => 1 + wordsFor b.length).sum ∧
        ∀ more, recvOperands k (taken ++ more) = .ok (bs, more) := by
  induction k generalizing ws bs with
  | zero =>
    injection h with h
    injection h with h₁ h₂
    subst h₁ h₂
    exact ⟨rfl, by simp, [], by simp, by simp, fun _ => rfl⟩
  | succ k ih =>
    unfold recvOperands at h
    split at h
    · cases h
    · next b mid hb =>
      split at h
      · cases h
      · next bs' rest' hbs =>
        injection h with h
        injection h with h₁ h₂
        subst h₁ h₂
        obtain ⟨len, payload, rfl, hp, hval, hlen⟩ := recvBF_ok hb
        obtain ⟨hk, hfit, taken, rfl, htaken, hagain⟩ := ih hbs
        refine ⟨by simp [hk], ?_, len :: (payload ++ taken), by simp, ?_, fun more => ?_⟩
        · intro x hx
          rcases List.mem_cons.mp hx with rfl | hx
          · rw [hlen]; exact len.isLt
          · exact hfit x hx
        · simp [htaken, hp, hlen]; omega
        · have : (len :: (payload ++ taken)) ++ more = len :: (payload ++ (taken ++ more)) := by simp
          rw [this, recvOperands, recvBF_payload _ hp, hval]
          simp [hagain more]

/-- The opcode a byte names has that byte. -/
theorem Opcode.byte_of_ofByte {b : Byte} {op : Opcode} (h : Opcode.ofByte b = some op) : op.byte = b := by
  have := List.find?_some h
  simpa using this

/-- Each assigned opcode is read back from its byte. -/
@[simp] theorem Opcode.ofByte_byte (op : Opcode) : Opcode.ofByte op.byte = some op := by cases op <;> decide

/-- A decoded command came from one command word and the operands its format says (R109). -/
theorem decode_ok {ws rest : List Word} {i : Instr} (h : decode ws = .ok (i, rest)) :
    ∃ w0 more, ws = w0 :: more ∧
      ((Opcode.ofByte (opcodeByte w0) = none ∧ i = .illegal w0 [] ∧ rest = more) ∨
        ∃ op operands, Opcode.ofByte (opcodeByte w0) = some op ∧
          recvOperands (op.operandCount w0) more = .ok (operands, rest) ∧ i = interpret op w0 operands) := by
  cases ws with
  | nil => cases h
  | cons w0 more =>
    refine ⟨w0, more, rfl, ?_⟩
    rw [decode] at h
    split at h
    · injection h with h
      injection h with h₁ h₂
      exact .inl ⟨‹_›, h₁.symm, h₂.symm⟩
    · next op hop =>
      split at h
      · cases h
      · next operands rest' hr =>
        injection h with h
        injection h with h₁ h₂
        subst h₁ h₂
        exact .inr ⟨op, operands, hop, hr, rfl⟩

end Sys2Proof
end

