-- ==== Sys2Proof/Laws/PerInstr.lean ====
section
/-! SUPPORT. Facts about every command as syntax, one lemma a constructor. -/

namespace Sys2Proof.Laws

/-- The words of an operand: its length word and its payload. -/
theorem sendBF_length (b : Bits) : (sendBF b).length = 1 + wordsFor b.length := by
  simp [sendBF]
  omega

end Sys2Proof.Laws

/-! ### How many words a command's encoding has (R109). -/

namespace Sys2Proof.Laws.EncodedLength

/-- The words of an operand that may be absent. -/
def optWords : Option Bits → Nat
  | none => 0
  | some b => 1 + wordsFor b.length

theorem sendOptBF_length (b : Option Bits) : (sendOptBF b).length = optWords b := by
  cases b with
  | none => rfl
  | some b => exact sendBF_length b

/-- The encoding has the command word and each operand's words, no more (R109). -/
def Statement : Instr → Prop
  | .setId pt shf apid => (encode (.setId pt shf apid)).length = 2 + wordsFor apid.length
  | .setIdIdle pt => (encode (.setIdIdle pt)).length = 1
  | .setSeq sf count => (encode (.setSeq sf count)).length = 2 + wordsFor count.length
  | .setSecHdr tc anc => (encode (.setSecHdr tc anc)).length = 1 + optWords tc + optWords anc
  | .clrSecHdr => (encode .clrSecHdr).length = 1
  | .setUserData ud => (encode (.setUserData ud)).length = 2 + wordsFor ud.length
  | .setIdle i => (encode (.setIdle i)).length = 1
  | .build => (encode .build).length = 1
  | .newBuilder => (encode .newBuilder).length = 1
  | .pktLen => (encode .pktLen).length = 1
  | .pktSerialize => (encode .pktSerialize).length = 1
  | .getStatus => (encode .getStatus).length = 1
  | .illegal w0 operands =>
    (encode (.illegal w0 operands)).length = 1 + (operands.map fun b => 1 + wordsFor b.length).sum

theorem setId (pt : PacketType) (shf : SecHdrFlag) (apid : Bits) : Statement (.setId pt shf apid) := by
  simp [Statement, encode, sendBF_length]
  omega
theorem setIdIdle (pt : PacketType) : Statement (.setIdIdle pt) := rfl
theorem setSeq (sf : SeqFlags) (count : Bits) : Statement (.setSeq sf count) := by
  simp [Statement, encode, sendBF_length]
  omega
theorem setSecHdr (tc anc : Option Bits) : Statement (.setSecHdr tc anc) := by
  simp [Statement, encode, sendOptBF_length]
  omega
theorem clrSecHdr : Statement .clrSecHdr := rfl
theorem setUserData (ud : Bits) : Statement (.setUserData ud) := by
  simp [Statement, encode, sendBF_length]
  omega
theorem setIdle (i : Bool) : Statement (.setIdle i) := rfl
theorem build : Statement .build := rfl
theorem newBuilder : Statement .newBuilder := rfl
theorem pktLen : Statement .pktLen := rfl
theorem pktSerialize : Statement .pktSerialize := rfl
theorem getStatus : Statement .getStatus := rfl
theorem illegal (w0 : Word) (operands : List Bits) : Statement (.illegal w0 operands) := by
  simp [Statement, encode, List.length_flatMap, sendBF_length]
  omega

end Sys2Proof.Laws.EncodedLength

/-! ### The opcode of a command's first word (R90, R93 to R104). -/

namespace Sys2Proof.Laws.FirstWord

/-- The first word of a command carries its opcode and no reserved bit. -/
def starts (op : Opcode) (ws : List Word) : Prop :=
  ∃ w more, ws = w :: more ∧ opcodeByte w = op.byte ∧ op.reservedSet w = false

/-- Every legal command starts with its own opcode; an illegal one starts with the word it was read from. -/
def Statement : Instr → Prop
  | .setId pt shf apid => starts .setId (encode (.setId pt shf apid))
  | .setIdIdle pt => starts .setIdIdle (encode (.setIdIdle pt))
  | .setSeq sf count => starts .setSeq (encode (.setSeq sf count))
  | .setSecHdr tc anc => starts .setSecHdr (encode (.setSecHdr tc anc))
  | .clrSecHdr => starts .clrSecHdr (encode .clrSecHdr)
  | .setUserData ud => starts .setUserData (encode (.setUserData ud))
  | .setIdle i => starts .setIdle (encode (.setIdle i))
  | .build => starts .build (encode .build)
  | .newBuilder => starts .newBuilder (encode .newBuilder)
  | .pktLen => starts .pktLen (encode .pktLen)
  | .pktSerialize => starts .pktSerialize (encode .pktSerialize)
  | .getStatus => starts .getStatus (encode .getStatus)
  | .illegal w0 operands => ∃ more, encode (.illegal w0 operands) = w0 :: more

theorem setId (pt : PacketType) (shf : SecHdrFlag) (apid : Bits) : Statement (.setId pt shf apid) :=
  ⟨_, _, rfl, by cases pt <;> cases shf <;> decide, by cases pt <;> cases shf <;> decide⟩
theorem setIdIdle (pt : PacketType) : Statement (.setIdIdle pt) :=
  ⟨_, _, rfl, by cases pt <;> decide, by cases pt <;> decide⟩
theorem setSeq (sf : SeqFlags) (count : Bits) : Statement (.setSeq sf count) :=
  ⟨_, _, rfl, by cases sf <;> decide, by cases sf <;> decide⟩
theorem setSecHdr (tc anc : Option Bits) : Statement (.setSecHdr tc anc) :=
  ⟨_, _, rfl, by generalize tc.isSome = t; generalize anc.isSome = a; cases t <;> cases a <;> decide,
    by generalize tc.isSome = t; generalize anc.isSome = a; cases t <;> cases a <;> decide⟩
theorem clrSecHdr : Statement .clrSecHdr := ⟨_, _, rfl, by decide, by decide⟩
theorem setUserData (ud : Bits) : Statement (.setUserData ud) := ⟨_, _, rfl, by decide, by decide⟩
theorem setIdle (i : Bool) : Statement (.setIdle i) :=
  ⟨_, _, rfl, by cases i <;> decide, by cases i <;> decide⟩
theorem build : Statement .build := ⟨_, _, rfl, by decide, by decide⟩
theorem newBuilder : Statement .newBuilder := ⟨_, _, rfl, by decide, by decide⟩
theorem pktLen : Statement .pktLen := ⟨_, _, rfl, by decide, by decide⟩
theorem pktSerialize : Statement .pktSerialize := ⟨_, _, rfl, by decide, by decide⟩
theorem getStatus : Statement .getStatus := ⟨_, _, rfl, by decide, by decide⟩
theorem illegal (w0 : Word) (operands : List Bits) : Statement (.illegal w0 operands) := ⟨_, rfl⟩

end Sys2Proof.Laws.FirstWord
end

