-- ==== Sys2Proof/Tests/Slice0.lean ====
section
/-! SUPPORT. Tests with results taken from the spec's formats and from 95_test_vectors.md, and a witness for the hypotheses of
every statement that has some. -/

namespace Sys2Proof.Tests

open Sys2Proof Sys2Proof.Machine Sys2Proof.Claims

/-- The next state of an outcome. -/
def nextState : Host.Outcome State Fault Refusal → Option State
  | .next s => some s
  | .fault _ => none
  | .refused _ => none

/-- The response of a command. -/
def answerOf (i : Instr) (s : State) : Option (List Word) := (nextState (exec i s)).map fun t => t.outbox

/-- A populated builder with the identification and the sequence control of vector family B3 (`ID0` or `IDP`, `SQ`). -/
def ready (shf : SecHdrFlag) (sh : Option SecHdr) (ud : Option Bits) : State :=
  { State.reset with
    bstate := .populated
    idSlot := some ⟨.telemetry, shf, bitsOf 11 0x001⟩
    scSlot := some ⟨.unsegmented, zeros 14⟩
    shSlot := sh
    udSlot := ud }

/-- The 56-bit packet of program P1. -/
def packetP1 : Packet := ⟨bitsOf 56 0x07FFC0000000A5⟩

/-- A block that has built the packet of program P1. -/
def builtP1 : State := { State.reset with bstate := .built, pkt := some packetP1 }

/-! ### Decoding, each word written from its format (R93 to R104, R108) -/

theorem test_decode_setId :
    decode [0b00000001101000000000000000000000, 11, 0b00100100011000000000000000000000] =
      .ok (.setId .telecommand .present (bitsOf 11 0x123), []) := by rfl
theorem test_decode_setIdIdle :
    decode [0b00000010100000000000000000000000] = .ok (.setIdIdle .telecommand, []) := by rfl
theorem test_decode_setSeq :
    decode [0b00000011010000000000000000000000, 14, 0b00000000000101000000000000000000] =
      .ok (.setSeq .first (bitsOf 14 5), []) := by rfl
theorem test_decode_setSecHdr :
    decode [0b00000100110000000000000000000000, 8, 0x12000000, 4, 0x30000000] =
      .ok (.setSecHdr (some (bitsOf 8 0x12)) (some (bitsOf 4 3)), []) := by rfl
theorem test_decode_clrSecHdr : decode [0b00000101000000000000000000000000] = .ok (.clrSecHdr, []) := by rfl
theorem test_decode_setUserData :
    decode [0b00000110000000000000000000000000, 40, 0x01234567, 0x89000000, 0x0A000000] =
      .ok (.setUserData (bitsOf 40 0x0123456789), [0x0A000000]) := by rfl
theorem test_decode_setIdle : decode [0b00000111100000000000000000000000] = .ok (.setIdle true, []) := by rfl
theorem test_decode_build : decode [0b00001000000000000000000000000000] = .ok (.build, []) := by rfl
theorem test_decode_newBuilder : decode [0b00001001000000000000000000000000] = .ok (.newBuilder, []) := by rfl
theorem test_decode_pktLen : decode [0b00001010000000000000000000000000] = .ok (.pktLen, []) := by rfl
theorem test_decode_pktSerialize : decode [0b00001011000000000000000000000000] = .ok (.pktSerialize, []) := by rfl
theorem test_decode_getStatus : decode [0b00001100000000000000000000000000] = .ok (.getStatus, []) := by rfl
/-- B-DEC-5: SHF = 11, the operand is consumed. -/
theorem test_decode_illegal_shf :
    decode [0x01600000, 0x0000000B, 0, 0x0C000000] = .ok (.illegal 0x01600000 [zeros 11], [0x0C000000]) := by rfl
/-- B-DEC-6: a reserved bit of SET_SEC_HDR, both operands are consumed. -/
theorem test_decode_illegal_reserved :
    decode [0x04C00001, 0, 0] = .ok (.illegal 0x04C00001 [[], []], []) := by rfl
/-- B-DEC-7: an unassigned opcode consumes one word. -/
theorem test_decode_illegal_unassigned :
    decode [0x0D000000, 0x09000000] = .ok (.illegal 0x0D000000 [], [0x09000000]) := by rfl
/-- B-SET-15: the unused low bits of the last payload word are ignored. -/
theorem test_decode_unused_bits :
    decode [0x01A00000, 11, 0x246FFFFF] = .ok (.setId .telecommand .present (bitsOf 11 0x123), []) := by rfl
/-- R245: what is missing is named. -/
theorem test_decode_incomplete :
    decode [] = .error .noCommandWord ∧ decode [0x06000000] = .error .noLengthWord ∧
      decode [0x06000000, 33, 0] = .error .shortPayload := ⟨rfl, rfl, rfl⟩
/-- R110's example. -/
theorem test_assemble_example :
    (assemble "SET_ID TC, PRESENT, 11'h123").map encode = some [0x01A00000, 0x0000000B, 0x24600000] := by decide
/-- P3: `SET_SEC_HDR -, 8'hC3`. -/
theorem test_assemble_absent_part :
    (assemble "SET_SEC_HDR -, 8'hC3").map encode = some [0x04400000, 0x00000008, 0xC3000000] := by decide
theorem test_table_word : decodeTableWord 32 0x04C00000 = some (.setSecHdr (some []) (some [])) := by rfl

/-! ### WellFormed refuses an ill-formed command, each check on its own -/

theorem test_wf_long_apid (b : Bits) (h : 2 ^ 32 ≤ b.length) :
    (Instr.setId .telemetry .present b).wellFormed = false := by
  simp only [Instr.wellFormed, operandFits, decide_eq_false_iff_not]
  omega
theorem test_wf_long_part (b : Bits) (h : 2 ^ 32 ≤ b.length) :
    (Instr.setSecHdr none (some b)).wellFormed = false := by
  simp only [Instr.wellFormed, optOperandFits, operandFits, Bool.true_and, decide_eq_false_iff_not]
  omega
theorem test_wf_long_exists : ∃ b : Bits, 2 ^ 32 ≤ b.length := ⟨List.replicate (2 ^ 32) true, by rw [List.length_replicate]⟩
theorem test_wf_legal_word : (Instr.illegal 0x08000000 []).wellFormed = false := by rfl
theorem test_wf_operand_count : (Instr.illegal 0x01600000 []).wellFormed = false := by rfl

/-! ### Meanings (95_test_vectors.md) -/

/-- B-SET-2 and A1. -/
theorem test_setId_stores :
    (nextState (exec (.setId .telemetry .present (zeros 11)) State.reset)).map (fun t => (t.outbox, t.idSlot)) =
      some ([0x00000100], some ⟨.telemetry, .present, zeros 11⟩) := by rfl
/-- B-SET-1. -/
theorem test_setId_empty_apid : answerOf (.setId .telemetry .present []) State.reset = some [0x00000005] := by rfl
theorem test_setIdIdle_stores :
    (nextState (exec (.setIdIdle .telemetry) State.reset)).map (fun t => t.idSlot) =
      some (some ⟨.telemetry, .idle, bitsOf 11 0x7FF⟩) := by rfl
/-- B-SET-5 on a populated builder keeps the slot. -/
theorem test_setSeq_wrong_width :
    (nextState (exec (.setSeq .continuation (zeros 13)) (ready .present none none))).map
      (fun t => (t.outbox, t.scSlot)) = some ([0x00000106], some ⟨.unsegmented, zeros 14⟩) := by rfl
/-- B-SET-11: both parts are replaced. -/
theorem test_setSecHdr_replaces :
    (nextState (exec (.setSecHdr none (some (bitsOf 8 0xCC)))
      (ready .present (some ⟨some (bitsOf 8 0xAA), some (bitsOf 8 0xBB)⟩) none))).map (fun t => t.shSlot) =
      some (some ⟨none, some (bitsOf 8 0xCC)⟩) := by rfl
/-- B-SET-8. -/
theorem test_clrSecHdr_populates : answerOf .clrSecHdr State.reset = some [0x00000100] := by rfl
/-- B-SET-12. -/
theorem test_setUserData_consumed : answerOf (.setUserData (zeros 8)) builtP1 = some [0x00000608] := by rfl
/-- B-SET-7. -/
theorem test_setIdle_populates : answerOf (.setIdle false) State.reset = some [0x00000100] := by rfl
/-- B-BUILD-27. -/
theorem test_build_packet :
    (nextState (exec .build (ready .present (some ⟨some (bitsOf 8 0x12), some (bitsOf 8 0x34)⟩)
      (some (bitsOf 8 0x56))))).map (fun t => (t.outbox, t.pkt)) =
      some ([0x00000600], some ⟨bitsOf 72 0x0801C0000002123456⟩) := by rfl
/-- P5 with OCTET_ALIGN_CHECK false: a 60-bit packet, data length 0. -/
theorem test_build_fractional_unchecked :
    (nextState (execBuildWith false (ready .present (some ⟨some (bitsOf 4 0xA), none⟩)
      (some (bitsOf 8 0x5A))))).map (fun t => t.pkt) = some (some ⟨bitsOf 60 0x0801C0000000A5A⟩) := by rfl
/-- B-OUT-5. -/
theorem test_newBuilder_keeps_packet : answerOf .newBuilder builtP1 = some [0x00000400] := by rfl
/-- P1. -/
theorem test_pktLen_bits : answerOf .pktLen builtP1 = some [0x00000600, 0x00000038] := by rfl
/-- P1. -/
theorem test_pktSerialize_words :
    answerOf .pktSerialize builtP1 = some [0x00000600, 0x00000038, 0x07FFC000, 0x0000A500] := by rfl
/-- B-OUT-2. -/
theorem test_pktSerialize_no_packet : answerOf .pktSerialize State.reset = some [0x00000009] := by rfl
/-- P6: the status read is the illegal command's. -/
theorem test_getStatus_word :
    answerOf .getStatus { builtP1 with bstate := .empty, lastStatus := 0x0A } = some [0x0000040A] := by rfl
/-- B-DEC-9. -/
theorem test_illegal_in_built : answerOf (.illegal 0x0F000000 []) builtP1 = some [0x0000060A] := by rfl
/-- A8: BUILD first after reset. -/
theorem test_step_build_after_reset :
    (nextState (step (State.reset.withFetchWord 32 0x08000000))).map (fun t => (t.outbox, t.bstate)) =
      some ([0x00000301], .failed) := by rfl
/-- R240: nothing has come yet. -/
theorem test_step_after_reset : step State.reset = .fault .noCommand := by rfl

/-! ### Witnesses: each statement's hypotheses hold together somewhere -/

theorem witness_wellFormed :
    ∀ i ∈ [Instr.setId .telemetry .idle (ones 11), .setIdIdle .telecommand, .setSeq .last (ones 14),
      .setSecHdr (some []) (some [true]), .clrSecHdr, .setUserData [], .setIdle true, .build, .newBuilder, .pktLen,
      .pktSerialize, .getStatus, .illegal 0x0D000000 [], .illegal 0x01600000 [zeros 11],
      .illegal 0x04C00001 [[], [true]]], i.wellFormed = true := by decide
theorem witness_decoded : decode [0x0C000000, 0x08000000] = .ok (.getStatus, [0x08000000]) := by rfl
theorem witness_payload_none : ([] : List Word).length = ((0 : Word).toNat + 31) / 32 := by decide
theorem witness_payload_full : ([1, 2] : List Word).length = ((33 : Word).toNat + 31) / 32 := by decide
theorem witness_opcode_unassigned_low : opcodeUnassigned 0x00FFFFFF := by decide
theorem witness_opcode_unassigned_first : opcodeUnassigned 0x0D000000 := by decide
theorem witness_opcode_unassigned_last : opcodeUnassigned 0xFFFFFFFF := by decide
theorem witness_format_illegal_reserved :
    formatIllegal 0x0C000001 ∧ recvOperands (operandsOf 0x0C000001) [7] = .ok ([], [7]) := by
  exact ⟨by decide, rfl⟩
theorem witness_format_illegal_operand :
    formatIllegal 0x03200000 ∧ recvOperands (operandsOf 0x03200000) [1, 0x80000000] = .ok ([[true]], []) := by
  exact ⟨by decide, rfl⟩
theorem witness_format_illegal_shf :
    formatIllegal 0x01600000 ∧ recvOperands (operandsOf 0x01600000) [0, 5] = .ok ([[]], [5]) := by
  exact ⟨by decide, rfl⟩
theorem witness_illegal_decodes : decode [0x0C000001] = .ok (.illegal 0x0C000001 [], []) := by rfl
theorem witness_in_range : (65535 : Nat) < 2 ^ 16 ∧ (0 : Nat) < 2 ^ 0 := by decide
theorem witness_step_decodes :
    State.reset.outbox = [] ∧ decode { State.reset with cmdChan := [0x08000000, 5] }.cmdChan = .ok (.build, [5]) :=
  ⟨rfl, rfl⟩
theorem witness_room : { State.reset with outbox := [1, 2] }.respChan.length < Config.respCapacity :=
  Nat.zero_lt_succ _
theorem witness_response_full :
    ∃ s : State, s.outbox ≠ [] ∧ Config.respCapacity ≤ s.respChan.length :=
  ⟨{ State.reset with outbox := [1], respChan := List.replicate Config.respCapacity 0 }, by simp, by simp⟩
theorem witness_incomplete :
    ∀ i rest, decode { State.reset with cmdChan := [0x06000000] }.cmdChan ≠ .ok (i, rest) := by
  intro i rest h
  cases h
theorem witness_setters_consumed : isSetter (.setIdle true) ∧ builderConsumed builtP1 := ⟨trivial, .inl rfl⟩
theorem witness_build_consumed : builderConsumed { State.reset with bstate := .failed } := .inr rfl
theorem witness_open_empty : builderOpen State.reset ∧ (zeros 12).length ≠ 11 ∧ (zeros 11).length = 11 :=
  ⟨.inl rfl, by decide, by decide⟩
theorem witness_open_populated : builderOpen (ready .idle none none) ∧ (zeros 13).length ≠ 14 ∧ (zeros 14).length = 14 :=
  ⟨.inr rfl, by decide, by decide⟩

/-- A populated builder with flag NotPresent and `n` user bits. -/
def withUser (n : Nat) : State := ready .notPresent none (some (List.replicate n false))

/-- The identification of `withUser`. -/
def ident0 : Ident := ⟨.telemetry, .notPresent, bitsOf 11 0x001⟩

theorem withUser_dataBits (n : Nat) : dataBits (withUser n) ident0 = n := by
  have h : (userBits (withUser n)).length = n := List.length_replicate
  show (attachedBits (withUser n) ident0).length + _ = n
  rw [h]
  show 0 + n = n
  omega

theorem withUser_open (n : Nat) :
    builderOpen (withUser n) ∧ (withUser n).idSlot = some ident0 ∧ (withUser n).scSlot = some ⟨.unsegmented, zeros 14⟩ ∧
      ¬ headerInsubstantial (withUser n) ident0 ∧ (userBits (withUser n)).length = n :=
  ⟨.inr rfl, rfl, rfl, (by rintro ⟨h, -⟩; cases h), List.length_replicate⟩

theorem witness_mandatory_missing : builderOpen State.reset ∧ fieldMissing State.reset := ⟨.inl rfl, .inl rfl⟩
theorem witness_mandatory_present : builderOpen (withUser 8) ∧ ¬ fieldMissing (withUser 8) :=
  ⟨.inr rfl, by rintro (h | h) <;> cases h⟩
/-- A populated builder with flag Present and the held header given. -/
def withHeader (sh : Option SecHdr) : State := ready .present sh none

/-- The identification of `withHeader`. -/
def ident1 : Ident := ⟨.telemetry, .present, bitsOf 11 0x001⟩
theorem witness_header_none :
    builderOpen (withHeader none) ∧ (withHeader none).idSlot = some ident1 ∧
      (withHeader none).scSlot = some ⟨.unsegmented, zeros 14⟩ ∧ headerInsubstantial (withHeader none) ident1 :=
  ⟨.inr rfl, rfl, rfl, rfl, rfl⟩
theorem witness_header_empty :
    builderOpen (withHeader (some ⟨some [], some []⟩)) ∧
      headerInsubstantial (withHeader (some ⟨some [], some []⟩)) ident1 := ⟨.inr rfl, rfl, rfl⟩
theorem witness_header_one_bit :
    builderOpen (withHeader (some ⟨some [true], none⟩)) ∧
      (withHeader (some ⟨some [true], none⟩)).idSlot = some ident1 ∧
      (withHeader (some ⟨some [true], none⟩)).scSlot = some ⟨.unsegmented, zeros 14⟩ ∧
      ¬ headerInsubstantial (withHeader (some ⟨some [true], none⟩)) ident1 := ⟨.inr rfl, rfl, rfl, by decide⟩
theorem witness_oversized :
    builderOpen (withUser 524289) ∧ (withUser 524289).idSlot = some ident0 ∧
      (withUser 524289).scSlot = some ⟨.unsegmented, zeros 14⟩ ∧ ¬ headerInsubstantial (withUser 524289) ident0 ∧
      dataBits (withUser 524289) ident0 > 524288 := by
  obtain ⟨h₁, h₂, h₃, h₄, -⟩ := withUser_open 524289
  exact ⟨h₁, h₂, h₃, h₄, by rw [withUser_dataBits]; omega⟩
theorem witness_largest :
    builderOpen (withUser 524288) ∧ (withUser 524288).idSlot = some ident0 ∧
      (withUser 524288).scSlot = some ⟨.unsegmented, zeros 14⟩ ∧ ¬ headerInsubstantial (withUser 524288) ident0 ∧
      dataBits (withUser 524288) ident0 ≤ 524288 ∧ 8 ≤ (userBits (withUser 524288)).length ∧
      dataBits (withUser 524288) ident0 % 8 = 0 := by
  obtain ⟨h₁, h₂, h₃, h₄, h₅⟩ := withUser_open 524288
  exact ⟨h₁, h₂, h₃, h₄, by rw [withUser_dataBits, h₅]; omega⟩
theorem witness_short_user :
    builderOpen (withUser 7) ∧ (withUser 7).idSlot = some ident0 ∧
      (withUser 7).scSlot = some ⟨.unsegmented, zeros 14⟩ ∧ ¬ headerInsubstantial (withUser 7) ident0 ∧
      dataBits (withUser 7) ident0 ≤ 524288 ∧ (userBits (withUser 7)).length < 8 := by
  obtain ⟨h₁, h₂, h₃, h₄, h₅⟩ := withUser_open 7
  exact ⟨h₁, h₂, h₃, h₄, by rw [withUser_dataBits, h₅]; omega⟩
theorem witness_smallest :
    builderOpen (withUser 8) ∧ (withUser 8).idSlot = some ident0 ∧
      (withUser 8).scSlot = some ⟨.unsegmented, zeros 14⟩ ∧ ¬ headerInsubstantial (withUser 8) ident0 ∧
      dataBits (withUser 8) ident0 ≤ 524288 ∧ 8 ≤ (userBits (withUser 8)).length ∧
      dataBits (withUser 8) ident0 % 8 = 0 := by
  obtain ⟨h₁, h₂, h₃, h₄, h₅⟩ := withUser_open 8
  exact ⟨h₁, h₂, h₃, h₄, by rw [withUser_dataBits, h₅]; omega⟩
theorem witness_fractional :
    builderOpen (withUser 12) ∧ (withUser 12).idSlot = some ident0 ∧
      (withUser 12).scSlot = some ⟨.unsegmented, zeros 14⟩ ∧ ¬ headerInsubstantial (withUser 12) ident0 ∧
      dataBits (withUser 12) ident0 ≤ 524288 ∧ 8 ≤ (userBits (withUser 12)).length ∧
      dataBits (withUser 12) ident0 % 8 ≠ 0 := by
  obtain ⟨h₁, h₂, h₃, h₄, h₅⟩ := withUser_open 12
  exact ⟨h₁, h₂, h₃, h₄, by rw [withUser_dataBits, h₅]; omega⟩
/-- A populated builder with IDLE set over a Present flag without a header. -/
def idleOverPresent : State := { ready .present none none with idle := true }
theorem witness_idle_override :
    builderOpen idleOverPresent ∧ idleOverPresent.idle = true ∧
      idleOverPresent.idSlot = some ⟨.telemetry, .present, bitsOf 11 0x001⟩ ∧
      idleOverPresent.scSlot = some ⟨.unsegmented, zeros 14⟩ ∧ (userBits idleOverPresent).length = 8 :=
  ⟨.inr rfl, rfl, rfl, rfl, rfl⟩
theorem witness_build_fails :
    exec .build State.reset =
      .next { State.reset with bstate := .failed, lastStatus := 0x01, outbox := [0x00000301] } := by rfl
theorem witness_plan :
    planBuild true (ready .notPresent none none) =
      .ok ⟨⟨.telemetry, .notPresent, bitsOf 11 0x001⟩, ⟨.unsegmented, zeros 14⟩, ⟨none, zeros 8⟩⟩ := by rfl
theorem witness_packet_changes :
    (nextState (exec .build (ready .notPresent none none))).map (fun t => (t.pkt != none, t.bstate)) =
      some (true, .built) := by rfl
theorem witness_newBuilder_moves :
    (nextState (exec .newBuilder builtP1)).map (fun t => t.bstate) = some .empty := by rfl
theorem witness_packet_held : builtP1.pkt = some packetP1 ∧ packetP1.bits.length ≤ 524336 := ⟨rfl, by decide⟩
theorem witness_data_length_bounds : (1 : Nat) ≤ 65536 ∧ (65536 : Nat) < 65537 := by decide
theorem witness_plan_out_of_range :
    dataFieldLen (⟨ident0, ⟨.last, zeros 14⟩, ⟨none, []⟩⟩ : BuildPlan).data / 8 = 0 := by rfl
theorem witness_field_widths : (bitsOf 11 1).length = 11 ∧ (zeros 14).length = 14 ∧ (bitsOf 16 0).length = 16 := by decide
/-- The packet of program P1 meets its constraint. -/
theorem witness_packet_wf : packetP1.wf :=
  ⟨⟨.telemetry, .idle, ones 11⟩, ⟨.unsegmented, zeros 14⟩, ⟨none, bitsOf 8 0xA5⟩, rfl, rfl,
    ⟨by decide, by decide, fun _ => by decide, by decide, by decide⟩, by decide⟩
theorem witness_octet : 8 * 6 + 8 ≤ packetP1.bits.length := by decide
/-- A state with every slot, a packet and both channels in use meets the invariant, and has a step. -/
def busy : State :=
  { ready .present (some ⟨some [true], none⟩) (some (zeros 9)) with
    pkt := some packetP1
    cmdChan := [0x08000000]
    respChan := [1] }
theorem witness_inv : busy.Inv where
  ident := by intro i h; cases h; exact rfl
  seq := by intro c h; cases h; exact rfl
  header := by
    intro h hh
    cases hh
    constructor
    · intro b hb
      cases hb
      decide
    · intro b hb
      cases hb
  userData := by intro b h; cases h; decide
  packet := by intro p h; cases h; exact witness_packet_wf
  status := by decide
  emptyHoldsNothing := by intro h; cases h
  builtHoldsPacket := by intro h; cases h
theorem witness_inv_steps : (nextState (step busy)).map (fun t => t.outbox) = some [0x00000707] := by rfl
theorem witness_read : hostRead busy = some (1, { busy with respChan := [] }) := by rfl
theorem witness_consumed_agree :
    builderConsumed builtP1 ∧ agreeOutsideSlots builtP1 { builtP1 with udSlot := some [true], idle := true } :=
  ⟨.inl rfl, rfl⟩
/-- A schedule that sends PKT_LEN to a block just reset and ends. -/
theorem witness_session :
    let es : List Event := [.send 0x0A000000, .block, .block, .read]
    Event.reset ∉ es ∧ sentWords es = [Instr.pktLen].flatMap encode ∧
      (Session.run es ⟨State.reset, []⟩).finished ∧ (Session.run es ⟨State.reset, []⟩).got = [0x00000009] := by
  have h : Session.run [.send 0x0A000000, .block, .block, .read] ⟨State.reset, []⟩ =
      ⟨{ State.reset with lastStatus := 0x09 }, [0x00000009]⟩ := by
    have h₁ : step { State.reset with cmdChan := [0x0A000000] } =
        .next { State.reset with lastStatus := 0x09, outbox := [0x00000009] } := by rfl
    have h₂ : step { State.reset with lastStatus := 0x09, outbox := [0x00000009] } =
        .next { State.reset with lastStatus := 0x09, respChan := [0x00000009] } := by
      simp [step, sendResponse, State.reset, Config.respCapacity]
    simp only [Session.run, Session.apply]
    rw [show hostSend 0x0A000000 State.reset = { State.reset with cmdChan := [0x0A000000] } from rfl, h₁]
    simp only
    rw [h₂]
    rfl
  simp only [h]
  exact ⟨by decide, by decide, ⟨rfl, rfl, rfl⟩, trivial⟩

end Sys2Proof.Tests
end

section
/-! `bitsOf` and `valOf` (R11), for every width and every value: each bit, and the value they carry. -/

namespace Sys2Proof

/-- Bit 0 of the sequence is the most significant of the `n` low bits (R11). -/
theorem bitsOf_getElem? {n k : Nat} (v : Nat) (hk : k < n) : (bitsOf n v)[k]? = some (v.testBit (n - 1 - k)) := by
  induction n generalizing k with
  | zero => omega
  | succ n ih =>
    cases k with
    | zero => simp [bitsOf]
    | succ k =>
      have hpos : n + 1 - 1 - (k + 1) = n - 1 - k := by omega
      rw [bitsOf, List.getElem?_cons_succ, ih (by omega), hpos]

/-- `bitsOf n` keeps exactly the `n` low bits of a number: what is above is lost, and nothing else. -/
@[simp] theorem valOf_bitsOf (n v : Nat) : valOf (bitsOf n v) = v % 2 ^ n := by
  induction n with
  | zero => simp [bitsOf, valOf, Nat.mod_one]
  | succ n ih =>
    calc valOf (bitsOf (n + 1) v)
        = (v.testBit n).toNat * 2 ^ n + v % 2 ^ n := by rw [bitsOf, valOf, bitsOf_length, ih]
      _ = v % 2 ^ n + 2 ^ n * (v / 2 ^ n % 2) := by rw [Nat.toNat_testBit]; ring
      _ = v % 2 ^ (n + 1) := by rw [pow_succ, Nat.mod_mul]

theorem valOf_bitsOf_of_lt {n v : Nat} (hv : v < 2 ^ n) : valOf (bitsOf n v) = v := by
  rw [valOf_bitsOf, Nat.mod_eq_of_lt hv]

/-- Settles O9, by induction on the width for the bits (`bitsOf_getElem?`) and for the value (`valOf_bitsOf`). -/
theorem bitFieldsAreMostSignificantFirst : Obligations.BitFieldsAreMostSignificantFirst := by
  intro n v hv
  refine ⟨bitsOf_length n v, fun k hk => ?_, valOf_bitsOf_of_lt hv⟩
  rw [bitsOf_getElem? v hk, Nat.testBit_eq_decide_div_mod_eq, beq_eq_decide]

end Sys2Proof
end

section
/-! What a command can do (R150 to R204), said once for all thirteen commands. -/

namespace Sys2Proof.Machine

open Sys2Proof.Claims

/-- The write of a setter that succeeds (R151 to R157): the command, the state before it and the state with the one slot
written. -/
inductive SlotWrite (s : State) : Instr → State → Prop where
  | ident (pt : PacketType) (shf : SecHdrFlag) (apid : Bits) (hlen : apid.length = 11) :
      SlotWrite s (.setId pt shf apid) { s with idSlot := some ⟨pt, shf, apid⟩ }
  | identIdle (pt : PacketType) : SlotWrite s (.setIdIdle pt) { s with idSlot := some (identIdle pt) }
  | seq (sf : SeqFlags) (count : Bits) (hlen : count.length = 14) :
      SlotWrite s (.setSeq sf count) { s with scSlot := some ⟨sf, count⟩ }
  | header (tc anc : Option Bits) : SlotWrite s (.setSecHdr tc anc) { s with shSlot := some ⟨tc, anc⟩ }
  | noHeader : SlotWrite s .clrSecHdr { s with shSlot := none }
  | userData (ud : Bits) : SlotWrite s (.setUserData ud) { s with udSlot := some ud }
  | idle (b : Bool) : SlotWrite s (.setIdle b) { s with idle := b }

theorem SlotWrite.isSetter {s u : State} {i : Instr} (h : SlotWrite s i u) : isSetter i := by
  cases h <;> exact trivial

theorem SlotWrite.pkt {s u : State} {i : Instr} (h : SlotWrite s i u) : u.pkt = s.pkt := by
  cases h <;> rfl

/-- The packet BUILD commits for a plan (R180). -/
def BuildPlan.packet (p : BuildPlan) : Packet :=
  ⟨serialize (packPrimary p.ident p.seq (bitsOf 16 (dataFieldLen p.data / 8 - 1))) p.data⟩

/-- The effects a command can have: the states it can leave, with what has been checked on the way. -/
inductive ExecEffect (i : Instr) (s : State) : State → Prop where
  /-- Nothing changes but `LAST_STATUS` and the response (R205, R220). -/
  | answered (e : Status) (payload : List Word) : ExecEffect i s (finish e payload s)
  /-- Not even `LAST_STATUS` changes (R203). -/
  | reported (hi : i = .getStatus) : ExecEffect i s (sendAnswer s.lastStatus [] s)
  /-- A setter has written its slot (R150). -/
  | stored {u : State} (hopen : s.consumed = false) (hw : SlotWrite s i u) :
      ExecEffect i s (finish .ok [] { u with bstate := .populated })
  /-- BUILD has failed a check (R181). -/
  | buildFailed (hi : i = .build) (hopen : s.consumed = false) (e : Status) : ExecEffect i s (failBuild e s)
  /-- BUILD has committed a packet (R180). -/
  | built (hi : i = .build) (hopen : s.consumed = false) {p : BuildPlan}
      (hp : planBuild Config.octetAlignCheck s = .ok p) :
      ExecEffect i s (finish .ok [] { s with pkt := some p.packet, bstate := .built })
  /-- NEW_BUILDER has emptied the builder (R200). -/
  | emptied (hi : i = .newBuilder) :
      ExecEffect i s (finish .ok []
        { s with bstate := .empty, idSlot := none, scSlot := none, shSlot := none, udSlot := none, idle := false })

/-- The setter frame around a body that can do no other write than its command's (R150). -/
theorem setter_effect {i : Instr} {s : State} {body : Except Status State}
    (hbody : ∀ u, body = .ok u → SlotWrite s i u) : ExecEffect i s (setter body s) := by
  obtain ⟨-, h⟩ | ⟨-, e, -, h⟩ | ⟨hopen, u, hu, h⟩ := setter_cases body s <;> rw [h]
  · exact .answered _ _
  · exact .answered _ _
  · exact .stored hopen (hbody u hu)

theorem bodySetId_ok {pt : PacketType} {shf : SecHdrFlag} {apid : Bits} {s u : State}
    (h : bodySetId pt shf apid s = .ok u) : SlotWrite s (.setId pt shf apid) u := by
  unfold bodySetId at h
  split at h
  · cases h
  · next hi =>
    obtain ⟨hlen, rfl⟩ := identNew_ok hi
    cases h
    exact .ident pt shf apid hlen

theorem bodySetSeq_ok {sf : SeqFlags} {count : Bits} {s u : State}
    (h : bodySetSeq sf count s = .ok u) : SlotWrite s (.setSeq sf count) u := by
  unfold bodySetSeq at h
  split at h
  · cases h
  · next hc =>
    obtain ⟨hlen, rfl⟩ := seqNew_ok hc
    cases h
    exact .seq sf count hlen

theorem readPacket_effect (i : Instr) (payload : Packet → List Word) (s : State) :
    ExecEffect i s (readPacket payload s) := by
  unfold readPacket
  split <;> exact .answered _ _

theorem execBuild_effect (s : State) : ∃ t, execBuild s = .next t ∧ ExecEffect .build s t := by
  obtain ⟨-, h⟩ | ⟨hopen, e, -, h⟩ | ⟨hopen, p, hp, h⟩ := execBuildWith_cases Config.octetAlignCheck s
  · exact ⟨_, h, .answered _ _⟩
  · exact ⟨_, h, .buildFailed rfl hopen e⟩
  · exact ⟨_, h, .built rfl hopen hp⟩

/-- Every command answers a next state, by one of the effects (R220). -/
theorem exec_effect (i : Instr) (s : State) : ∃ t, exec i s = .next t ∧ ExecEffect i s t := by
  cases i with
  | setId pt shf apid => exact ⟨_, rfl, setter_effect fun u hu => bodySetId_ok hu⟩
  | setIdIdle pt => exact ⟨_, rfl, setter_effect fun u hu => by cases hu; exact .identIdle pt⟩
  | setSeq sf count => exact ⟨_, rfl, setter_effect fun u hu => bodySetSeq_ok hu⟩
  | setSecHdr tc anc => exact ⟨_, rfl, setter_effect fun u hu => by cases hu; exact .header tc anc⟩
  | clrSecHdr => exact ⟨_, rfl, setter_effect fun u hu => by cases hu; exact .noHeader⟩
  | setUserData ud => exact ⟨_, rfl, setter_effect fun u hu => by cases hu; exact .userData ud⟩
  | setIdle b => exact ⟨_, rfl, setter_effect fun u hu => by cases hu; exact .idle b⟩
  | build => exact execBuild_effect s
  | newBuilder => exact ⟨_, rfl, .emptied rfl⟩
  | pktLen => exact ⟨_, rfl, readPacket_effect _ _ s⟩
  | pktSerialize => exact ⟨_, rfl, readPacket_effect _ _ s⟩
  | getStatus => exact ⟨_, rfl, .reported rfl⟩
  | illegal w0 operands => exact ⟨_, rfl, .answered _ _⟩

/-- The inversion of `exec`: a next state it answers comes from one of the effects. -/
theorem execEffect_of_next {i : Instr} {s t : State} (h : exec i s = .next t) : ExecEffect i s t := by
  obtain ⟨t', ht', heff⟩ := exec_effect i s
  cases ht'.symm.trans h
  exact heff

end Sys2Proof.Machine

namespace Sys2Proof

open Sys2Proof.Machine Sys2Proof.Claims

/-- Settles O32, by the effects a command can have: only the committed BUILD writes the packet. -/
theorem packetChangesOnlyBySuccessfulBuild : Obligations.PacketChangesOnlyBySuccessfulBuild := by
  intro i s t h hpkt
  cases execEffect_of_next h with
  | answered => exact absurd rfl hpkt
  | reported => exact absurd rfl hpkt
  | stored _ hw => exact absurd hw.pkt hpkt
  | buildFailed => exact absurd rfl hpkt
  | built hi hopen => exact ⟨hi, (not_consumed_iff s).mp hopen, rfl, rfl⟩
  | emptied => exact absurd rfl hpkt

/-- Settles O33, by the effects a command can have. -/
theorem builderStateMoves : Obligations.BuilderStateMoves := by
  intro i s t h hmove
  cases execEffect_of_next h with
  | answered => exact absurd rfl hmove
  | reported => exact absurd rfl hmove
  | stored hopen hw =>
    have hempty : s.bstate = .empty := ((not_consumed_iff s).mp hopen).resolve_right fun hp => hmove hp.symm
    exact .inl ⟨hw.isSetter, hempty, rfl⟩
  | buildFailed hi hopen => exact .inr (.inl ⟨hi, (not_consumed_iff s).mp hopen, .inr rfl⟩)
  | built hi hopen => exact .inr (.inl ⟨hi, (not_consumed_iff s).mp hopen, .inl rfl⟩)
  | emptied hi => exact .inr (.inr ⟨hi, rfl⟩)

end Sys2Proof
end

section
/-! The decoder and the encoder (R90 to R109): decoded commands are well-formed, later words do not matter, and the
encoding of a well-formed command decodes to it. -/

namespace Sys2Proof

/-- The T and A bits say which operand of SET_SEC_HDR is which part (R96). -/
theorem commandOf_setSecHdr_of_bits {w0 : Word} {tc anc : Option Bits} (ht : bitAt w0 23 = tc.isSome)
    (ha : bitAt w0 22 = anc.isSome) :
    commandOf .setSecHdr w0 (tc.toList ++ anc.toList) = some (.setSecHdr tc anc) := by
  cases tc <;> cases anc <;> simp [commandOf, ht, ha]

/-- SET_SEC_HDR with as many operands as its T and A bits say has its command (R96). -/
theorem commandOf_setSecHdr {w0 : Word} {operands : List Bits}
    (hlen : operands.length = (bitAt w0 23).toNat + (bitAt w0 22).toNat) (hfit : ∀ b ∈ operands, operandFits b = true) :
    ∃ i, commandOf .setSecHdr w0 operands = some i ∧ i.wellFormed = true := by
  cases ht : bitAt w0 23 <;> cases ha : bitAt w0 22 <;> simp only [ht, ha, Bool.toNat_true, Bool.toNat_false] at hlen
  · obtain rfl := List.eq_nil_of_length_eq_zero hlen
    exact ⟨_, commandOf_setSecHdr_of_bits (tc := none) (anc := none) ht ha, rfl⟩
  · obtain ⟨a, rfl⟩ := List.length_eq_one_iff.mp hlen
    exact ⟨_, commandOf_setSecHdr_of_bits (tc := none) (anc := some a) ht ha, hfit a (by simp)⟩
  · obtain ⟨t, rfl⟩ := List.length_eq_one_iff.mp hlen
    exact ⟨_, commandOf_setSecHdr_of_bits (tc := some t) (anc := none) ht ha,
      by simp [Instr.wellFormed, optOperandFits, hfit t]⟩
  · obtain ⟨t, a, rfl⟩ := List.length_eq_two.mp hlen
    exact ⟨_, commandOf_setSecHdr_of_bits (tc := some t) (anc := some a) ht ha,
      by simp [Instr.wellFormed, optOperandFits, hfit t, hfit a]⟩

/-- With the operands its format says, an opcode has its command, unless the word is SET_ID with `SHF = 11` (R108). -/
theorem commandOf_cases {op : Opcode} {w0 : Word} {operands : List Bits}
    (hlen : operands.length = op.operandCount w0) (hfit : ∀ b ∈ operands, operandFits b = true) :
    (∃ i, commandOf op w0 operands = some i ∧ i.wellFormed = true) ∨
      (commandOf op w0 operands = none ∧ op.shfReserved w0 = true) := by
  cases op with
  | setId =>
    obtain ⟨b, rfl⟩ := List.length_eq_one_iff.mp hlen
    cases hs : shfOfCode (bitAt w0 22) (bitAt w0 21) with
    | none => exact .inr (by simp [commandOf, Opcode.shfReserved, hs])
    | some f => exact .inl ⟨.setId (ptOfBit (bitAt w0 23)) f b, by simp [commandOf, hs], hfit b (by simp)⟩
  | setSeq | setUserData =>
    obtain ⟨b, rfl⟩ := List.length_eq_one_iff.mp hlen
    exact .inl ⟨_, rfl, hfit b (by simp)⟩
  | setSecHdr => exact .inl (commandOf_setSecHdr hlen hfit)
  | setIdIdle | clrSecHdr | setIdle | build | newBuilder | pktLen | pktSerialize | getStatus =>
    obtain rfl := List.eq_nil_of_length_eq_zero hlen
    exact .inl ⟨_, rfl, rfl⟩

theorem operandCountOf_of_ofByte {w0 : Word} {op : Opcode} (h : Opcode.ofByte (opcodeByte w0) = some op) :
    operandCountOf w0 = op.operandCount w0 := by
  simp [operandCountOf, h]

theorem illegalWord_of_ofByte {w0 : Word} {op : Opcode} (h : Opcode.ofByte (opcodeByte w0) = some op) :
    illegalWord w0 = (op.reservedSet w0 || op.shfReserved w0) := by
  simp [illegalWord, h]

/-- Whatever an assigned opcode is read as, with the operands its format says, is well-formed (R108, R109). -/
theorem interpret_wellFormed {op : Opcode} {w0 : Word} {operands : List Bits}
    (hop : Opcode.ofByte (opcodeByte w0) = some op) (hlen : operands.length = op.operandCount w0)
    (hfit : ∀ b ∈ operands, operandFits b = true) : (interpret op w0 operands).wellFormed = true := by
  have hillegal : illegalWord w0 = true → (Instr.illegal w0 operands).wellFormed = true := fun hw => by
    simpa [Instr.wellFormed, operandsMatch, operandCountOf_of_ofByte hop, hlen, hw] using hfit
  rw [illegalWord_of_ofByte hop] at hillegal
  unfold interpret
  split
  · next hres => exact hillegal (by simp [hres])
  · obtain ⟨i, hi, hwf⟩ | ⟨hi, hshf⟩ := commandOf_cases hlen hfit <;> rw [hi]
    · exact hwf
    · exact hillegal (by simp [hshf])

/-- The decoder gives well-formed commands only (R91, R108, R109). -/
theorem decode_wellFormed {ws rest : List Word} {i : Instr} (h : decode ws = .ok (i, rest)) : i.wellFormed = true := by
  obtain ⟨w0, more, rfl, ⟨hop, rfl, rfl⟩ | ⟨op, operands, hop, hr, rfl⟩⟩ := decode_ok h
  · simp [Instr.wellFormed, illegalWord, operandsMatch, operandCountOf, hop]
  · obtain ⟨hlen, hfit, -⟩ := recvOperands_ok hr
    exact interpret_wellFormed hop hlen fun b hb => decide_eq_true (hfit b hb)

/-- Words that come after a whole command stay where they are (R71). -/
theorem decode_append {ws rest : List Word} {i : Instr} (more : List Word) (h : decode ws = .ok (i, rest)) :
    decode (ws ++ more) = .ok (i, rest ++ more) := by
  obtain ⟨w0, ws, rfl, ⟨hop, rfl, rfl⟩ | ⟨op, operands, hop, hr, rfl⟩⟩ := decode_ok h
  · simp [decode, hop]
  · obtain ⟨-, -, taken, rfl, -, hagain⟩ := recvOperands_ok hr
    simp [decode, hop, hagain]

/-- The block receives the operand that was sent (R91). -/
theorem recvBF_sendBF {b : Bits} (rest : List Word) (h : operandFits b = true) :
    recvBF (sendBF b ++ rest) = .ok (b, rest) := by
  have hlen : (BitVec.ofNat 32 b.length).toNat = b.length := Nat.mod_eq_of_lt (of_decide_eq_true h)
  rw [sendBF, List.cons_append, recvBF_payload rest (by rw [packWords_length, hlen]), unpackWords_packWords, hlen,
    List.take_left]

theorem recvOperands_sendBF {operands : List Bits} (rest : List Word) (h : ∀ b ∈ operands, operandFits b = true) :
    recvOperands operands.length (operands.flatMap sendBF ++ rest) = .ok (operands, rest) := by
  induction operands with
  | nil => rfl
  | cons b bs ih =>
    obtain ⟨hb, hbs⟩ := List.forall_mem_cons.mp h
    simp [recvOperands, recvBF_sendBF _ hb, ih hbs]

/-- What the decoder makes of a command word and the operands its format says (R109). -/
theorem decode_sendBF {op : Opcode} {w0 : Word} {operands : List Bits} (rest : List Word)
    (hop : Opcode.ofByte (opcodeByte w0) = some op) (hlen : operands.length = op.operandCount w0)
    (hfit : ∀ b ∈ operands, operandFits b = true) :
    decode (w0 :: (operands.flatMap sendBF ++ rest)) = .ok (interpret op w0 operands, rest) := by
  simp [decode, hop, ← hlen, recvOperands_sendBF rest hfit]


/-- The encoding of a legal command, whose first word carries its opcode and no reserved bit, decodes to it. -/
theorem decode_encode_of_starts {op : Opcode} {i : Instr} {w0 : Word} {ws : List Word} {operands : List Bits}
    (rest : List Word) (henc : encode i = w0 :: ws) (hstarts : Laws.FirstWord.starts op (encode i))
    (hws : ws = operands.flatMap sendBF) (hlen : operands.length = op.operandCount w0)
    (hfit : ∀ b ∈ operands, operandFits b = true) (hi : commandOf op w0 operands = some i) :
    decode (encode i ++ rest) = .ok (i, rest) := by
  obtain ⟨w, more, hw, hbyte, hres⟩ := hstarts
  obtain ⟨rfl, -⟩ := List.cons.inj (henc.symm.trans hw)
  have hop : Opcode.ofByte (opcodeByte w0) = some op := by rw [hbyte, Opcode.ofByte_byte]
  rw [henc, hws, List.cons_append, decode_sendBF rest hop hlen hfit]
  simp [interpret, hres, hi]

/-- The encoding of an illegal command decodes to it (R108). -/
theorem decode_encode_illegal {w0 : Word} {operands : List Bits} (rest : List Word)
    (h : (Instr.illegal w0 operands).wellFormed = true) :
    decode (encode (.illegal w0 operands) ++ rest) = .ok (.illegal w0 operands, rest) := by
  simp only [Instr.wellFormed, operandsMatch, Bool.and_eq_true, beq_iff_eq, List.all_eq_true] at h
  obtain ⟨⟨hw, hlen⟩, hfit⟩ := h
  cases hop : Opcode.ofByte (opcodeByte w0) with
  | none =>
    simp only [operandCountOf, hop] at hlen
    obtain rfl := List.eq_nil_of_length_eq_zero hlen
    simp [encode, decode, hop]
  | some op =>
    rw [operandCountOf_of_ofByte hop] at hlen
    rw [illegalWord_of_ofByte hop] at hw
    rw [encode, List.cons_append, decode_sendBF rest hop hlen hfit]
    cases hres : op.reservedSet w0 with
    | true => simp [interpret, hres]
    | false =>
      have hshf : op = .setId ∧ shfOfCode (bitAt w0 22) (bitAt w0 21) = none := by
        simpa [hres, Opcode.shfReserved] using hw
      obtain ⟨rfl, hshf⟩ := hshf
      obtain ⟨b, rfl⟩ := List.length_eq_one_iff.mp hlen
      simp [interpret, hres, commandOf, hshf]

/-- A legal command without operands is read back from its one word. -/
theorem decode_encode_of_noOperand {op : Opcode} {i : Instr} {w0 : Word} (rest : List Word) (henc : encode i = [w0])
    (hstarts : Laws.FirstWord.starts op (encode i)) (hlen : op.operandCount w0 = 0)
    (hi : commandOf op w0 [] = some i) : decode (encode i ++ rest) = .ok (i, rest) :=
  decode_encode_of_starts rest (operands := []) henc hstarts rfl hlen.symm (List.forall_mem_nil _) hi

/-- A legal command with one operand is read back from its words. -/
theorem decode_encode_of_oneOperand {op : Opcode} {i : Instr} {w0 : Word} {b : Bits} (rest : List Word)
    (henc : encode i = w0 :: sendBF b) (hstarts : Laws.FirstWord.starts op (encode i)) (hlen : op.operandCount w0 = 1)
    (hfit : operandFits b = true) (hi : commandOf op w0 [b] = some i) : decode (encode i ++ rest) = .ok (i, rest) :=
  decode_encode_of_starts rest (operands := [b]) henc hstarts (by simp) hlen.symm (List.forall_mem_singleton.mpr hfit) hi

/-- The T and A bits of a SET_SEC_HDR word are read back (R96). -/
theorem bitAt_setSecHdr (t a : Bool) :
    bitAt (commandWord .setSecHdr (t.toNat * 2 ^ 23 + a.toNat * 2 ^ 22)) 23 = t ∧
      bitAt (commandWord .setSecHdr (t.toNat * 2 ^ 23 + a.toNat * 2 ^ 22)) 22 = a := by
  cases t <;> cases a <;> decide

/-- SET_SEC_HDR is read back from its words, each part present or absent on its own (R96). -/
theorem decode_encode_setSecHdr {tc anc : Option Bits} (rest : List Word)
    (h : (Instr.setSecHdr tc anc).wellFormed = true) :
    decode (encode (.setSecHdr tc anc) ++ rest) = .ok (.setSecHdr tc anc, rest) := by
  have hfit : ∀ b ∈ tc.toList ++ anc.toList, operandFits b = true := by
    cases tc <;> cases anc <;> simp_all [Instr.wellFormed, optOperandFits]
  obtain ⟨ht, ha⟩ := bitAt_setSecHdr tc.isSome anc.isSome
  refine decode_encode_of_starts rest rfl (Laws.FirstWord.setSecHdr tc anc) ?words ?count hfit ?command
  case words => cases tc <;> cases anc <;> simp [sendOptBF]
  case count =>
    rw [Opcode.operandCount, ht, ha]
    cases tc <;> cases anc <;> rfl
  case command => exact commandOf_setSecHdr_of_bits ht ha

/-- The decoder reads back every well-formed command from its own words, whatever follows them (R91, R109). -/
theorem decode_encode {i : Instr} (rest : List Word) (h : i.wellFormed = true) :
    decode (encode i ++ rest) = .ok (i, rest) := by
  cases i with
  | setId pt shf apid =>
    exact decode_encode_of_oneOperand rest rfl (Laws.FirstWord.setId pt shf apid) rfl h
      (by cases pt <;> cases shf <;> rfl)
  | setIdIdle pt =>
    exact decode_encode_of_noOperand rest rfl (Laws.FirstWord.setIdIdle pt) rfl (by cases pt <;> rfl)
  | setSeq sf count =>
    exact decode_encode_of_oneOperand rest rfl (Laws.FirstWord.setSeq sf count) rfl h (by cases sf <;> rfl)
  | setSecHdr tc anc => exact decode_encode_setSecHdr rest h
  | clrSecHdr => exact decode_encode_of_noOperand rest rfl Laws.FirstWord.clrSecHdr rfl rfl
  | setUserData ud => exact decode_encode_of_oneOperand rest rfl (Laws.FirstWord.setUserData ud) rfl h rfl
  | setIdle b => exact decode_encode_of_noOperand rest rfl (Laws.FirstWord.setIdle b) rfl (by cases b <;> rfl)
  | build => exact decode_encode_of_noOperand rest rfl Laws.FirstWord.build rfl rfl
  | newBuilder => exact decode_encode_of_noOperand rest rfl Laws.FirstWord.newBuilder rfl rfl
  | pktLen => exact decode_encode_of_noOperand rest rfl Laws.FirstWord.pktLen rfl rfl
  | pktSerialize => exact decode_encode_of_noOperand rest rfl Laws.FirstWord.pktSerialize rfl rfl
  | getStatus => exact decode_encode_of_noOperand rest rfl Laws.FirstWord.getStatus rfl rfl
  | illegal w0 operands => exact decode_encode_illegal rest h

end Sys2Proof
end

section
/-! Reset (R45, R240), and the invariant of R33 to R42: it holds after reset and every step keeps it. -/

namespace Sys2Proof.Machine

theorem Status.code_le (e : Status) : e.code.toNat ≤ 0x0A := by
  cases e <;> decide

/-- The invariant says nothing of the channels. -/
theorem State.Inv.withChannels {s : State} (h : s.Inv) (c o r : List Word) :
    State.Inv { s with cmdChan := c, outbox := o, respChan := r } :=
  ⟨h.ident, h.seq, h.header, h.userData, h.packet, h.status, h.emptyHoldsNothing, h.builtHoldsPacket⟩

theorem State.Inv.sendAnswer {s : State} (h : s.Inv) (code : BitVec 8) (payload : List Word) :
    (sendAnswer code payload s).Inv :=
  h.withChannels s.cmdChan _ s.respChan

theorem State.Inv.finish {s : State} (h : s.Inv) (e : Status) (payload : List Word) : (finish e payload s).Inv :=
  ⟨h.ident, h.seq, h.header, h.userData, h.packet, e.code_le, h.emptyHoldsNothing, h.builtHoldsPacket⟩

/-- While the builder is Populated or Failed, what the slots and the packet hold is all there is to check. -/
theorem State.Inv.withBState {s : State} (h : s.Inv) {b : BState} (hb : b = .populated ∨ b = .failed) :
    State.Inv { s with bstate := b } :=
  ⟨h.ident, h.seq, h.header, h.userData, h.packet, h.status, fun he => by cases hb <;> simp_all,
    fun he => by cases hb <;> simp_all⟩

/-- A header of a well-formed SET_SEC_HDR fits its length registers (R37, R91). -/
theorem secHdr_fits_of_wellFormed {tc anc : Option Bits} (h : (Instr.setSecHdr tc anc).wellFormed = true) :
    SecHdr.fits ⟨tc, anc⟩ := by
  have hpart : ∀ {x : Option Bits}, optOperandFits x = true → ∀ b, x = some b → regionFits b := by
    rintro _ hx b rfl
    exact of_decide_eq_true hx
  rw [Instr.wellFormed, Bool.and_eq_true] at h
  obtain ⟨htc, hanc⟩ := h
  exact ⟨hpart htc, hpart hanc⟩

/-- What a setter stores meets its slot's constraint, and the builder is not Empty with it (R33, R35 to R38). -/
theorem SlotWrite.inv {s u : State} {i : Instr} (hw : SlotWrite s i u) (hi : i.wellFormed = true) (h : s.Inv) :
    State.Inv { u with bstate := .populated } := by
  have h' : State.Inv { s with bstate := .populated } := h.withBState (.inl rfl)
  cases hw with
  | ident pt shf apid hlen => exact { h' with ident := by rintro _ ⟨⟩; exact hlen, emptyHoldsNothing := nofun }
  | identIdle pt => exact { h' with ident := by rintro _ ⟨⟩; exact ones_length _, emptyHoldsNothing := nofun }
  | seq sf count hlen => exact { h' with seq := by rintro _ ⟨⟩; exact hlen, emptyHoldsNothing := nofun }
  | header tc anc =>
    exact { h' with header := by rintro _ ⟨⟩; exact secHdr_fits_of_wellFormed hi, emptyHoldsNothing := nofun }
  | noHeader => exact { h' with header := nofun, emptyHoldsNothing := nofun }
  | userData ud => exact { h' with userData := by rintro _ ⟨⟩; exact of_decide_eq_true hi, emptyHoldsNothing := nofun }
  | idle b => exact { h' with emptyHoldsNothing := nofun }

theorem idleOverride_ok {idle : Bool} {i : Ident} (h : i.ok) : (idleOverride idle i).ok := by
  cases idle with
  | true => exact ones_length _
  | false => exact h

/-- A header that is not missing makes the data field have a header exactly when the flag is Present, of at least one
bit (R173, R174). -/
theorem attach_header {i : Ident} {sh : Option SecHdr} {ud : Option Bits} (h : headerMissing i sh = false) :
    ((attach i sh ud).sh.isSome = true ↔ i.shf = .present) ∧
      (i.shf = .present → 1 ≤ optSecHdrLen (attach i sh ud).sh) := by
  by_cases hf : i.shf = .present
  · have hlen : optSecHdrLen sh ≠ 0 := by simpa [headerMissing, hf] using h
    cases sh with
    | none => exact absurd rfl hlen
    | some hdr => simpa [attach, hf, Nat.one_le_iff_ne_zero] using hlen
  · simp [attach, hf]

/-- The packet of a plan that passed every check meets its constraint (R89, R180). -/
theorem BuildPlan.packet_wf {s : State} {p : BuildPlan} (hs : s.Inv)
    (hp : planBuild Config.octetAlignCheck s = .ok p) : p.packet.wf := by
  obtain ⟨i, hi, hc, hident, hhdr, hdata, hmax, hud, hal⟩ := planBuild_ok hp
  have hok : p.ident.ok := hident ▸ idleOverride_ok (hs.ident i hi)
  obtain ⟨hsome, hsub⟩ := attach_header (ud := s.udSlot) hhdr
  rw [← hdata] at hsome hsub
  exact ⟨p.ident, p.seq, p.data, hok, hs.seq _ hc, ⟨hud, hmax, hal, hsome, hsub⟩, rfl⟩

/-- Every command that can be sent keeps the invariant. -/
theorem exec_inv {i : Instr} {s t : State} (hs : s.Inv) (hi : i.wellFormed = true) (h : exec i s = .next t) :
    t.Inv := by
  cases execEffect_of_next h with
  | answered e payload => exact hs.finish e payload
  | reported => exact hs.sendAnswer _ _
  | stored _ hw => exact (hw.inv hi hs).finish _ _
  | buildFailed _ _ e => exact (hs.withBState (.inr rfl)).finish e _
  | built _ _ hp =>
    refine State.Inv.finish ?_ _ _
    exact { hs with
      packet := by rintro _ ⟨⟩; exact BuildPlan.packet_wf hs hp
      emptyHoldsNothing := nofun
      builtHoldsPacket := fun _ => rfl }
  | emptied =>
    refine State.Inv.finish ?_ _ _
    exact { hs with
      ident := nofun
      seq := nofun
      header := nofun
      userData := nofun
      emptyHoldsNothing := fun _ => ⟨rfl, rfl, rfl, rfl, rfl⟩
      builtHoldsPacket := nofun }

theorem reset_inv : State.reset.Inv where
  ident := nofun
  seq := nofun
  header := nofun
  userData := nofun
  packet := nofun
  status := Nat.zero_le _
  emptyHoldsNothing := fun _ => ⟨rfl, rfl, rfl, rfl, rfl⟩
  builtHoldsPacket := nofun

end Sys2Proof.Machine

namespace Sys2Proof

open Sys2Proof.Machine

/-- Settles O44: reset is the state of R45, whatever the state before it. -/
theorem resetValues : Obligations.ResetValues := fun _ =>
  ⟨rfl, rfl, rfl, rfl, rfl, rfl, rfl, rfl, rfl, rfl, rfl, rfl⟩

/-- Settles O45. -/
theorem resetMeetsInvariant : Obligations.ResetMeetsInvariant := reset_inv

/-- Settles O46: a step sends a response word, which touches the channels only, or performs a decoded and so well-formed
command (`exec_inv`). -/
theorem stepKeepsInvariant : Obligations.StepKeepsInvariant := by
  intro s t hs h
  obtain ⟨w, more, -, -, rfl⟩ | ⟨i, rest, -, hdec, hexec⟩ := step_cases h
  · exact hs.withChannels s.cmdChan more _
  · exact exec_inv (hs.withChannels rest s.outbox s.respChan) (decode_wellFormed hdec) hexec

end Sys2Proof
end

section
/-! The slots of a consumed builder are never observable (R40): a consumed state and the same state with its slots blanked
take the same steps, up to those slots. -/

namespace Sys2Proof.Machine

open Sys2Proof.Claims

/-- The state with its five builder slots blanked. -/
def State.blankSlots (s : State) : State :=
  { s with idSlot := none, scSlot := none, shSlot := none, udSlot := none, idle := false }

section blankSlots
variable (s : State)
@[simp] theorem blankSlots_consumed : s.blankSlots.consumed = s.consumed := rfl
@[simp] theorem blankSlots_pkt : s.blankSlots.pkt = s.pkt := rfl
@[simp] theorem blankSlots_cmdChan : s.blankSlots.cmdChan = s.cmdChan := rfl
@[simp] theorem blankSlots_outbox : s.blankSlots.outbox = s.outbox := rfl
@[simp] theorem blankSlots_respChan : s.blankSlots.respChan = s.respChan := rfl
end blankSlots

/-- What can be observed of a state: all of it, or all but the slots while the builder is consumed (R40). -/
def State.observable (s : State) : State := if s.consumed then s.blankSlots else s

/-- A session with the observable part of its block. -/
def Session.observable (r : Session) : Session := { r with block := r.block.observable }

/-- An outcome with its next state, if it has one, changed. -/
def mapNext (f : State → State) : Host.Outcome State Fault Refusal → Host.Outcome State Fault Refusal
  | .next s => .next (f s)
  | .fault r => .fault r
  | .refused r => .refused r

@[simp] theorem mapNext_next (f : State → State) (s : State) : mapNext f (.next s) = .next (f s) := rfl
@[simp] theorem mapNext_fault (f : State → State) (r : Fault) : mapNext f (.fault r) = .fault r := rfl

theorem observable_of_consumed {s : State} (h : s.consumed = true) : s.observable = s.blankSlots := by
  simp [State.observable, h]

theorem observable_of_open {s : State} (h : s.consumed = false) : s.observable = s := by
  simp [State.observable, h]

/-- A pending response is sent first (R205). -/
theorem step_of_outbox {s : State} {w : Word} {more : List Word} (ho : s.outbox = w :: more) :
    step s = sendResponse w more s := by
  simp [step, ho]

/-- Without a whole command the block waits (R245). -/
theorem step_of_wait {s : State} {e : DecodeError} (ho : s.outbox = []) (hd : decode s.cmdChan = .error e) :
    step s = .fault (waitFault e) := by
  simp [step, ho, takeCommand, hd]

/-- A whole command is performed on the state whose channel starts after it (R68). -/
theorem step_of_decode {s : State} {taken : Instr × List Word} (ho : s.outbox = [])
    (hd : decode s.cmdChan = .ok taken) : step s = exec taken.1 { s with cmdChan := taken.2 } := by
  simp [step, ho, takeCommand, hd]

/-- A consumed builder refuses the setters and BUILD (R150, R170). -/
theorem setter_of_consumed {s : State} (body : Except Status State) (h : s.consumed = true) :
    setter body s = finish .builderConsumed [] s := by
  simp [setter, h]

theorem execBuild_of_consumed {s : State} (h : s.consumed = true) :
    execBuild s = .next (finish .builderConsumed [] s) := by
  simp [execBuild, execBuildWith, h]

/-- Answering does not look at the slots. -/
theorem observable_finish {s : State} (h : s.consumed = true) (e : Status) (payload : List Word) :
    (finish e payload s).observable = finish e payload s.blankSlots :=
  observable_of_consumed (s := finish e payload s) h

theorem observable_readPacket {s : State} (h : s.consumed = true) (payload : Packet → List Word) :
    (readPacket payload s).observable = readPacket payload s.blankSlots := by
  cases hp : s.pkt <;> simp [readPacket, hp, observable_finish h]

/-- No command on a consumed builder looks at the slots; NEW_BUILDER overwrites them (R40, R150, R200). -/
theorem exec_blankSlots (i : Instr) {s : State} (h : s.consumed = true) :
    exec i s.blankSlots = mapNext State.observable (exec i s) := by
  have hsetter : ∀ body body',
      Host.Outcome.next (setter body s.blankSlots) = mapNext State.observable (.next (setter body' s)) := by
    intro body body'
    rw [setter_of_consumed (s := s.blankSlots) _ h, setter_of_consumed _ h, mapNext_next, observable_finish h]
  cases i with
  | setId | setIdIdle | setSeq | setSecHdr | clrSecHdr | setUserData | setIdle => exact hsetter _ _
  | build =>
    rw [exec, exec, execBuild_of_consumed h, execBuild_of_consumed (s := s.blankSlots) h, mapNext_next, observable_finish h]
  | newBuilder => rfl
  | pktLen | pktSerialize => exact congrArg Host.Outcome.next (observable_readPacket h _).symm
  | getStatus => exact congrArg Host.Outcome.next (observable_of_consumed (s := sendAnswer s.lastStatus [] s) h).symm
  | illegal => exact congrArg Host.Outcome.next (observable_finish h _ _).symm

theorem sendResponse_blankSlots {s : State} (h : s.consumed = true) (w : Word) (more : List Word) :
    sendResponse w more s.blankSlots = mapNext State.observable (sendResponse w more s) := by
  by_cases hroom : s.respChan.length < Config.respCapacity
  · have hsent : State.observable { s with outbox := more, respChan := s.respChan ++ [w] } =
        { s.blankSlots with outbox := more, respChan := s.respChan ++ [w] } := observable_of_consumed h
    simp [sendResponse, hroom, hsent]
  · simp [sendResponse, hroom]

/-- Nor does a step look at the slots (R68, R205). -/
theorem step_blankSlots {s : State} (h : s.consumed = true) :
    step s.blankSlots = mapNext State.observable (step s) := by
  cases ho : s.outbox with
  | cons w more => rw [step_of_outbox ho, step_of_outbox (s := s.blankSlots) ho, sendResponse_blankSlots h]
  | nil =>
    cases hd : decode s.cmdChan with
    | error e => rw [step_of_wait ho hd, step_of_wait (s := s.blankSlots) ho hd, mapNext_fault]
    | ok taken =>
      rw [step_of_decode ho hd, step_of_decode (s := s.blankSlots) ho hd]
      exact exec_blankSlots taken.1 (s := { s with cmdChan := taken.2 }) h

theorem hostRead_blankSlots {s : State} (h : s.consumed = true) :
    hostRead s.blankSlots = (hostRead s).map fun read => (read.1, read.2.observable) := by
  cases hr : s.respChan with
  | nil => simp [hostRead, hr]
  | cons w more =>
    have hread : State.observable { s with respChan := more } = { s.blankSlots with respChan := more } :=
      observable_of_consumed h
    simp [hostRead, hr, hread]

/-- Every event acts alike on a consumed session and on its observable part. -/
theorem Session.apply_observable (e : Event) {r : Session} (h : r.block.consumed = true) :
    r.observable.apply e = (r.apply e).observable := by
  have hobs : r.observable = { r with block := r.block.blankSlots } := by
    rw [Session.observable, observable_of_consumed h]
  cases e with
  | block =>
    rw [hobs]
    simp only [Session.apply, step_blankSlots h]
    cases step r.block with
    | next => rfl
    | fault | refused => exact hobs.symm
  | send w =>
    rw [hobs]
    exact congrArg (Session.mk · r.got) (observable_of_consumed (s := hostSend w r.block) h).symm
  | read =>
    rw [hobs]
    simp only [Session.apply, hostRead_blankSlots h]
    cases hostRead r.block with
    | none => exact hobs.symm
    | some => rfl
  | reset => rfl

/-- The host reads the same words from a session and from its observable part. -/
theorem Session.run_observable_got (es : List Event) (r : Session) :
    (Session.run es r.observable).got = (Session.run es r).got := by
  induction es generalizing r with
  | nil => rfl
  | cons e es ih =>
    cases h : r.block.consumed with
    | false => rw [Session.observable, observable_of_open h]
    | true => rw [Session.run, Session.run, Session.apply_observable e h, ih]

theorem observable_eq_of_agree {s t : State} (hs : s.consumed = true) (h : agreeOutsideSlots s t) :
    s.observable = t.observable := by
  have ht : t.consumed = true := (congrArg State.consumed h).trans hs
  rw [observable_of_consumed hs, observable_of_consumed ht]
  exact (congrArg State.blankSlots h).symm

end Sys2Proof.Machine

namespace Sys2Proof

open Sys2Proof.Machine

/-- Settles O48: the two states have the same observable part, and what the host reads depends on that alone. -/
theorem consumedSlotsAreUnobservable : Obligations.ConsumedSlotsAreUnobservable := by
  intro s t got es hs hagree
  have hobs := observable_eq_of_agree ((consumed_iff s).mpr hs) hagree
  calc (Session.run es ⟨s, got⟩).got
      = (Session.run es (Session.observable ⟨s, got⟩)).got := (Session.run_observable_got es _).symm
    _ = (Session.run es (Session.observable ⟨t, got⟩)).got := by simp only [Session.observable, hobs]
    _ = (Session.run es ⟨t, got⟩).got := Session.run_observable_got es _

end Sys2Proof
end

section
/-! A session is the commands it sends, performed one after another (R46, R69, R251). A command's meaning does not depend on
the channels: it appends its response to what is pending and touches neither channel. -/

namespace Sys2Proof.Machine

/-- The state with empty channels and no pending response: what a command works on in `perform`. -/
def State.quiet (s : State) : State := { s with cmdChan := [], outbox := [], respChan := [] }

/-- The state `t` on the channels of `s`, with its response behind the one that `s` has pending. -/
def State.onChannelsOf (s t : State) : State :=
  { t with cmdChan := s.cmdChan, outbox := s.outbox ++ t.outbox, respChan := s.respChan }

theorem onChannelsOf_quiet (s : State) : s.onChannelsOf s.quiet = s := by
  simp [State.onChannelsOf, State.quiet]

theorem quiet_of_empty {s : State} (hc : s.cmdChan = []) (ho : s.outbox = []) (hr : s.respChan = []) : s.quiet = s := by
  cases s
  simp_all [State.quiet]

section onChannelsOf
variable (s t : State)

@[simp] theorem onChannelsOf_consumed : (s.onChannelsOf t).consumed = t.consumed := rfl
@[simp] theorem onChannelsOf_pkt : (s.onChannelsOf t).pkt = t.pkt := rfl

/-- Answering appends to what is pending (R205). -/
theorem sendAnswer_onChannelsOf (code : BitVec 8) (payload : List Word) :
    sendAnswer code payload (s.onChannelsOf t) = s.onChannelsOf (sendAnswer code payload t) := by
  simp [sendAnswer, State.onChannelsOf, statusWord, State.pktValid]

theorem finish_onChannelsOf (e : Status) (payload : List Word) :
    finish e payload (s.onChannelsOf t) = s.onChannelsOf (finish e payload t) :=
  sendAnswer_onChannelsOf s { t with lastStatus := e.code } e.code payload

variable {s t}

/-- The setter frame does not depend on the channels when its body does not. -/
theorem setter_onChannelsOf {body body' : Except Status State} (h : body' = body.map s.onChannelsOf) :
    setter body' (s.onChannelsOf t) = s.onChannelsOf (setter body t) := by
  subst h
  cases hc : t.consumed with
  | true => simp [setter, hc, finish_onChannelsOf]
  | false =>
    cases body with
    | error e => simp [setter, hc, Except.map, finish_onChannelsOf]
    | ok u =>
      simp only [setter, hc, Except.map, onChannelsOf_consumed]
      exact finish_onChannelsOf s { u with bstate := .populated } .ok []

theorem bodySetId_onChannelsOf (pt : PacketType) (shf : SecHdrFlag) (apid : Bits) :
    bodySetId pt shf apid (s.onChannelsOf t) = (bodySetId pt shf apid t).map s.onChannelsOf := by
  unfold bodySetId
  cases identNew pt shf apid <;> rfl

theorem bodySetSeq_onChannelsOf (sf : SeqFlags) (count : Bits) :
    bodySetSeq sf count (s.onChannelsOf t) = (bodySetSeq sf count t).map s.onChannelsOf := by
  unfold bodySetSeq
  cases seqNew sf count <;> rfl

theorem readPacket_onChannelsOf (payload : Packet → List Word) :
    readPacket payload (s.onChannelsOf t) = s.onChannelsOf (readPacket payload t) := by
  cases ht : t.pkt <;> simp [readPacket, ht, finish_onChannelsOf]

theorem commitBuild_onChannelsOf (p : BuildPlan) :
    commitBuild p (s.onChannelsOf t) = mapNext s.onChannelsOf (commitBuild p t) := by
  unfold commitBuild
  cases dataLengthField (dataFieldLen p.data / Config.octet) with
  | none => rfl
  | some dl =>
    exact congrArg Host.Outcome.next (finish_onChannelsOf s
      { t with pkt := some ⟨serialize (packPrimary p.ident p.seq dl) p.data⟩, bstate := .built } .ok [])

theorem execBuild_onChannelsOf : execBuild (s.onChannelsOf t) = mapNext s.onChannelsOf (execBuild t) := by
  have hplan : planBuild Config.octetAlignCheck (s.onChannelsOf t) = planBuild Config.octetAlignCheck t := rfl
  unfold execBuild execBuildWith
  rw [hplan, onChannelsOf_consumed]
  cases t.consumed with
  | true => exact congrArg Host.Outcome.next (finish_onChannelsOf s t .builderConsumed [])
  | false =>
    cases planBuild Config.octetAlignCheck t with
    | error e => exact congrArg Host.Outcome.next (finish_onChannelsOf s { t with bstate := .failed } e [])
    | ok p => exact commitBuild_onChannelsOf p

end onChannelsOf

/-- A command's meaning does not depend on the channels (R46). -/
theorem exec_onChannelsOf (i : Instr) (s t : State) :
    exec i (s.onChannelsOf t) = mapNext s.onChannelsOf (exec i t) := by
  cases i with
  | setId => exact congrArg Host.Outcome.next (setter_onChannelsOf (bodySetId_onChannelsOf _ _ _))
  | setSeq => exact congrArg Host.Outcome.next (setter_onChannelsOf (bodySetSeq_onChannelsOf _ _))
  | setIdIdle | setSecHdr | clrSecHdr | setUserData | setIdle =>
    exact congrArg Host.Outcome.next (setter_onChannelsOf rfl)
  | build => exact execBuild_onChannelsOf
  | newBuilder =>
    exact congrArg Host.Outcome.next (finish_onChannelsOf s
      { t with bstate := .empty, idSlot := none, scSlot := none, shSlot := none, udSlot := none, idle := false } .ok [])
  | pktLen | pktSerialize => exact congrArg Host.Outcome.next (readPacket_onChannelsOf _)
  | getStatus => exact congrArg Host.Outcome.next (sendAnswer_onChannelsOf s t _ _)
  | illegal => exact congrArg Host.Outcome.next (finish_onChannelsOf s t _ _)

/-- Performing a command away from the channels and putting the result on them is the command's meaning (R46). -/
theorem exec_of_quiet {i : Instr} {s t : State} (h : exec i s = .next t) :
    ∃ u, exec i s.quiet = .next u ∧ t = s.onChannelsOf u := by
  obtain ⟨u, hu, -⟩ := exec_effect i s.quiet
  have hs := exec_onChannelsOf i s s.quiet
  rw [onChannelsOf_quiet, h, hu] at hs
  cases hs
  exact ⟨u, hu, rfl⟩

/-- What a command does to a block without a pending response is what `perform` says of it, on the block's channels. -/
theorem exec_perform {i : Instr} {s t : State} (ho : s.outbox = []) (h : exec i s = .next t) :
    perform i s.quiet = (t.quiet, t.outbox) ∧ t.cmdChan = s.cmdChan ∧ t.respChan = s.respChan := by
  obtain ⟨u, hu, rfl⟩ := exec_of_quiet h
  obtain ⟨v, -, rfl⟩ := exec_of_quiet hu
  have hp : perform i s.quiet = ((s.quiet.onChannelsOf v).quiet, v.outbox) := by
    rw [perform, show ({ s.quiet with outbox := [] } : State) = s.quiet from rfl, hu]
    rfl
  refine ⟨?_, rfl, rfl⟩
  rw [hp, show (s.onChannelsOf (s.quiet.onChannelsOf v)).outbox = s.outbox ++ v.outbox from rfl, ho]
  rfl

/-- When the first words of well-formed commands hold a whole command, it is the first of them, and the words after it are
the other commands'. -/
theorem decode_commands {ws more rest : List Word} {i : Instr} {is : List Instr} (hwf : ∀ j ∈ is, j.wellFormed = true)
    (hws : ws ++ more = is.flatMap encode) (h : decode ws = .ok (i, rest)) :
    ∃ is', is = i :: is' ∧ rest ++ more = is'.flatMap encode := by
  have hdec := decode_append more h
  rw [hws] at hdec
  cases is with
  | nil => cases hdec
  | cons j is' =>
    rw [List.flatMap_cons, decode_encode _ (hwf j (by simp))] at hdec
    obtain ⟨rfl, hrest⟩ := Prod.mk.inj (Except.ok.inj hdec)
    exact ⟨is', rfl, hrest.symm⟩

/-- Well-formed commands have no words only if there are none. -/
theorem eq_nil_of_encode_eq_nil {is : List Instr} (hwf : ∀ i ∈ is, i.wellFormed = true)
    (h : is.flatMap encode = []) : is = [] := by
  cases is with
  | nil => rfl
  | cons i is =>
    have hdec := decode_encode (is.flatMap encode) (hwf i (by simp))
    rw [← List.flatMap_cons, h] at hdec
    cases hdec

/-- The commands `is` are still to be performed: the words in the command channel and those the host sends later are
exactly theirs. -/
def Session.Awaits (is : List Instr) (later : List Word) (r : Session) : Prop :=
  (∀ i ∈ is, i.wellFormed = true) ∧ r.block.cmdChan ++ later = is.flatMap encode

/-- Where a session with the commands `is` still to be performed ends: the block they leave, and all words the host has
read then. -/
def Session.ending (is : List Instr) (r : Session) : State × List Word :=
  ((performAll is r.block.quiet).1,
    r.got ++ r.block.respChan ++ r.block.outbox ++ (performAll is r.block.quiet).2)

/-- A step does not change where the session ends: it moves a response word, or performs the first of the commands. -/
theorem step_ending {is : List Instr} {later got : List Word} {s t : State} (hs : Session.Awaits is later ⟨s, got⟩)
    (h : step s = .next t) :
    ∃ is', Session.Awaits is' later ⟨t, got⟩ ∧ Session.ending is' ⟨t, got⟩ = Session.ending is ⟨s, got⟩ := by
  obtain ⟨hwf, hws⟩ := hs
  obtain ⟨w, more, ho, -, rfl⟩ | ⟨i, rest, ho, hdec, hexec⟩ := step_cases h
  · exact ⟨is, ⟨hwf, hws⟩, by simp [Session.ending, State.quiet, ho]⟩
  · obtain ⟨is', rfl, hrest⟩ := decode_commands hwf hws hdec
    obtain ⟨hp, hc, hr⟩ := exec_perform (s := { s with cmdChan := rest }) ho hexec
    have hfirst : perform i s.quiet = (t.quiet, t.outbox) := hp
    refine ⟨is', ⟨fun j hj => hwf j (List.mem_cons_of_mem i hj), by rw [← hrest, hc]⟩, ?_⟩
    simp [Session.ending, performAll, hfirst, hr, ho]

/-- No event but reset changes where the session ends. -/
theorem Session.apply_ending {is : List Instr} {es : List Event} {e : Event} {r : Session}
    (hr : r.Awaits is (sentWords (e :: es))) (he : e ≠ .reset) :
    ∃ is', (r.apply e).Awaits is' (sentWords es) ∧ (r.apply e).ending is' = r.ending is := by
  cases e with
  | block =>
    cases hstep : step r.block with
    | next t =>
      have happly : r.apply .block = ⟨t, r.got⟩ := by simp only [Session.apply, hstep]
      rw [happly]
      exact step_ending hr hstep
    | fault | refused =>
      have happly : r.apply .block = r := by simp only [Session.apply, hstep]
      rw [happly]
      exact ⟨is, hr, rfl⟩
  | send w =>
    obtain ⟨hwf, hws⟩ := hr
    exact ⟨is, ⟨hwf, by simpa [Session.apply, sentWords] using hws⟩, rfl⟩
  | read =>
    cases hread : hostRead r.block with
    | none =>
      have happly : r.apply .read = r := by simp only [Session.apply, hread]
      rw [happly]
      exact ⟨is, hr, rfl⟩
    | some taken =>
      obtain ⟨w, u⟩ := taken
      have happly : r.apply .read = ⟨u, r.got ++ [w]⟩ := by simp only [Session.apply, hread]
      obtain ⟨more, hresp, rfl⟩ := hostRead_some hread
      rw [happly]
      exact ⟨is, hr, by simp [Session.ending, State.quiet, hresp]⟩
  | reset => exact absurd rfl he

/-- A session without reset that has finished has ended there. -/
theorem Session.run_finished {is : List Instr} {es : List Event} {r : Session} (hr : r.Awaits is (sentWords es))
    (hreset : Event.reset ∉ es) (hfin : (Session.run es r).finished) :
    ((Session.run es r).block, (Session.run es r).got) = r.ending is := by
  induction es generalizing is r with
  | nil =>
    obtain ⟨hc, ho, hresp⟩ : r.finished := hfin
    obtain ⟨hwf, hws⟩ := hr
    obtain rfl := eq_nil_of_encode_eq_nil hwf (by rw [← hws, hc]; rfl)
    simp [Session.run, Session.ending, performAll, quiet_of_empty hc ho hresp, ho, hresp]
  | cons e es ih =>
    obtain ⟨he, hes⟩ : e ≠ .reset ∧ Event.reset ∉ es := by simpa [eq_comm] using hreset
    obtain ⟨is', hawaits, hending⟩ := Session.apply_ending hr he
    rw [← hending]
    exact ih hawaits hes hfin

end Sys2Proof.Machine

namespace Sys2Proof

open Sys2Proof.Machine

/-- Settles O49: every event but reset keeps where the session ends (`Session.apply_ending`), so a finished session has
ended where the whole list of commands leads from its start. -/
theorem hostReadsAnswersInOrder : Obligations.HostReadsAnswersInOrder := by
  intro is es s got hwf hreset hsent hc ho hr hfin
  have hend := Session.run_finished (is := is) (r := ⟨s, got⟩) ⟨hwf, by simp [hc, hsent]⟩ hreset hfin
  simp only [Session.ending, quiet_of_empty hc ho hr, ho, hr, List.append_nil] at hend
  obtain ⟨hblock, hgot⟩ := Prod.mk.inj hend
  exact ⟨hgot, hblock⟩

end Sys2Proof
end

section
/-! A channel carried as bytes (R66) and the octets of a packet (R65): the most significant byte, and the most significant
bit, come first. -/

namespace Sys2Proof

/-- Each byte of a word is a quotient of its value (R66). -/
theorem wordBytes_eq_ofNat (w : Word) : wordBytes w =
    [BitVec.ofNat 8 (w.toNat / 2 ^ 24), BitVec.ofNat 8 (w.toNat / 2 ^ 16), BitVec.ofNat 8 (w.toNat / 2 ^ 8),
      BitVec.ofNat 8 w.toNat] := by
  simp [wordBytes, BitVec.extractLsb', Nat.shiftRight_eq_div_pow]

/-- Four bytes sent for a word are received as that word (R66). -/
theorem bytesWord_extractLsb' (w : Word) :
    bytesWord (w.extractLsb' 24 8) (w.extractLsb' 16 8) (w.extractLsb' 8 8) (w.extractLsb' 0 8) = w := by
  have h₁ : w.extractLsb' 24 8 ++ w.extractLsb' 16 8 = w.extractLsb' 16 16 :=
    BitVec.extractLsb'_append_extractLsb'_eq_extractLsb' rfl
  have h₂ : w.extractLsb' 16 16 ++ w.extractLsb' 8 8 = w.extractLsb' 8 24 :=
    BitVec.extractLsb'_append_extractLsb'_eq_extractLsb' rfl
  have h₃ : w.extractLsb' 8 24 ++ w.extractLsb' 0 8 = w.extractLsb' 0 32 :=
    BitVec.extractLsb'_append_extractLsb'_eq_extractLsb' rfl
  calc bytesWord (w.extractLsb' 24 8) (w.extractLsb' 16 8) (w.extractLsb' 8 8) (w.extractLsb' 0 8)
      = w.extractLsb' 0 32 := by rw [bytesWord, h₁, h₂, h₃]
    _ = w := BitVec.extractLsb'_eq_self

/-- The bytes of words, whatever bytes follow, are received as those words (R66). -/
theorem bytesWords_flatMap_wordBytes (ws : List Word) (more : List Byte) :
    bytesWords (ws.flatMap wordBytes ++ more) = (ws ++ (bytesWords more).1, (bytesWords more).2) := by
  induction ws with
  | nil => rfl
  | cons w ws ih => simp [wordBytes, bytesWords, bytesWord_extractLsb', ih]

/-- The byte stream of a well-formed command decodes to it: its bytes are received as its words, and those decode to it
(R66, R109). -/
theorem decodeBytes_encodeBytes {i : Instr} (more : List Byte) (h : i.wellFormed = true) :
    decodeBytes (encodeBytes i ++ more) = .ok (i, (bytesWords more).1, (bytesWords more).2) := by
  simp [decodeBytes, encodeBytes, bytesWords_flatMap_wordBytes, decode_encode _ h]

/-- The bits of a sequence come back from the `n`-bit number that holds their value: none is lost (R11). -/
theorem bitsOf_ofNat_valOf {n : Nat} {b : Bits} (h : b.length = n) : bitsOf n (BitVec.ofNat n (valOf b)).toNat = b := by
  subst h
  rw [BitVec.toNat_ofNat, Nat.mod_eq_of_lt (valOf_lt b), bitsOf_valOf]

/-- Settles O8: the octets of a word by `wordBytes_eq_ofNat`, the byte stream by `decodeBytes_encodeBytes`. -/
theorem byteStreamCarriesCommands : Obligations.ByteStreamCarriesCommands :=
  ⟨fun w => ⟨rfl, wordBytes_eq_ofNat w⟩, fun _ more h => decodeBytes_encodeBytes more h⟩

/-- Settles O43: a whole octet holds the value of its eight bits, and they come back from it (`bitsOf_ofNat_valOf`). -/
theorem octetsAreMostSignificantFirst : Obligations.OctetsAreMostSignificantFirst :=
  fun _ _ h => bitsOf_ofNat_valOf (by simp; omega)

end Sys2Proof
end

section
/-! Decoding looks at no word after the command, and what one step does (R68 to R71). -/

namespace Sys2Proof

open Sys2Proof.Machine

/-- Settles O5: the decoder takes its words from the front and looks at no later one (`decode_append`). -/
theorem laterWordsDoNotChangeDecoding : Obligations.LaterWordsDoNotChangeDecoding :=
  fun _ _ more _ h => decode_append more h

/-- Settles O10: with nothing pending, `step` performs what the command channel decodes to (`step_of_decode`). -/
theorem stepPerformsDecodedCommand : Obligations.StepPerformsDecodedCommand :=
  fun _ _ _ ho hd => step_of_decode ho hd

/-- Settles O11: a pending response word is sent first (`step_of_outbox`), and there is room for it. -/
theorem stepSendsPendingResponse : Obligations.StepSendsPendingResponse := by
  intro s w more ho hroom
  calc step s = sendResponse w more s := step_of_outbox ho
    _ = .next { s with outbox := more, respChan := s.respChan ++ [w] } := if_pos hroom

end Sys2Proof
end

section
/-! What the decoder takes from the stream and which commands it calls illegal (R91, R108, R109). -/

namespace Sys2Proof

open Sys2Proof.Claims

/-- Settles O1: the round trip of `decode_encode`. -/
theorem decodeEncodeGivesBackCommand : Obligations.DecodeEncodeGivesBackCommand :=
  fun _ rest h => decode_encode rest h

/-- Settles O6: a payload that is there is received whole (`recvBF_payload`), and it carries at least L bits. -/
theorem operandIsFirstBitsOfPayload : Obligations.OperandIsFirstBitsOfPayload := by
  intro len payload rest hlen
  refine ⟨recvBF_payload rest hlen, ?_⟩
  have hbits : (unpackWords payload).length = 32 * payload.length := unpackWords_length payload
  rw [List.length_take]
  change min len.toNat (unpackWords payload).length = len.toNat
  omega

/-- Settles O3: the line is SET_ID with its three operands, and its encoding is read back by `decode_encode`. -/
theorem assemblerExampleEncodes : Obligations.AssemblerExampleEncodes := by
  have hwf : (Instr.setId .telecommand .present (bitsOf 11 0x123)).wellFormed = true := by decide
  exact ⟨.setId .telecommand .present (bitsOf 11 0x123), by decide, by decide, decode_encode [] hwf⟩

/-- The bit-field operands of a command, in the order of its format (R93 to R104). -/
def Instr.operands : Instr → List Bits
  | .setId _ _ apid => [apid]
  | .setIdIdle _ => []
  | .setSeq _ count => [count]
  | .setSecHdr tc anc => tc.toList ++ anc.toList
  | .clrSecHdr => []
  | .setUserData ud => [ud]
  | .setIdle _ => []
  | .build => []
  | .newBuilder => []
  | .pktLen => []
  | .pktSerialize => []
  | .getStatus => []
  | .illegal _ operands => operands

/-- A command's length is that of its command word and its operands (R109). -/
theorem commandWords_eq (i : Instr) : commandWords i = 1 + (i.operands.map operandWords).sum := by
  cases i with
  | setSecHdr tc anc => cases tc <;> cases anc <;> simp [commandWords, Instr.operands, optOperandWords, add_assoc]
  | _ => simp [commandWords, Instr.operands]

/-- A legal command word gives a legal command, which carries exactly the operands it was given (R109). -/
theorem commandOf_some {op : Opcode} {w0 : Word} {operands : List Bits} {i : Instr}
    (h : commandOf op w0 operands = some i) : i.operands = operands ∧ ∀ w bs, i ≠ .illegal w bs := by
  unfold commandOf at h
  split at h
  case h_1 =>
    obtain ⟨f, -, rfl⟩ := Option.map_eq_some_iff.mp h
    exact ⟨rfl, nofun⟩
  case h_4 => split at h <;> cases h <;> exact ⟨rfl, nofun⟩
  all_goals cases h <;> exact ⟨rfl, nofun⟩

/-- A command word and its operands are read as a legal command of those operands, or as the illegal command of that
word and those operands (R108, R109). -/
theorem interpret_cases (op : Opcode) (w0 : Word) (operands : List Bits) :
    commandOf op w0 operands = some (interpret op w0 operands) ∨ interpret op w0 operands = .illegal w0 operands := by
  unfold interpret
  split
  · exact .inr rfl
  · cases h : commandOf op w0 operands with
    | none => exact .inr rfl
    | some i => exact .inl rfl

theorem interpret_operands (op : Opcode) (w0 : Word) (operands : List Bits) :
    (interpret op w0 operands).operands = operands := by
  obtain h | h := interpret_cases op w0 operands
  · exact (commandOf_some h).1
  · rw [h, Instr.operands]

theorem word_eq_of_interpret_eq_illegal {op : Opcode} {w0 w : Word} {operands bs : List Bits}
    (h : interpret op w0 operands = .illegal w bs) : w = w0 := by
  obtain hi | hi := interpret_cases op w0 operands
  · exact absurd h ((commandOf_some hi).2 w bs)
  · cases hi.symm.trans h
    rfl

/-- A decoded command took from the stream its command word and its operands' words (R109). -/
theorem decode_taken {ws rest : List Word} {i : Instr} (h : decode ws = .ok (i, rest)) :
    ∃ taken, ws = taken ++ rest ∧ taken.length = commandWords i := by
  obtain ⟨w0, more, rfl, ⟨-, rfl, rfl⟩ | ⟨op, operands, -, hr, rfl⟩⟩ := decode_ok h
  · exact ⟨[w0], rfl, rfl⟩
  · obtain ⟨-, -, taken, rfl, hlen, -⟩ := recvOperands_ok hr
    refine ⟨w0 :: taken, rfl, ?_⟩
    rw [commandWords_eq, interpret_operands, List.length_cons, hlen, Nat.add_comm]
    rfl

/-- Settles O4: well-formed by `decode_wellFormed`, measured by `decode_taken`. -/
theorem decodedCommandsAreWellFormedAndMeasured : Obligations.DecodedCommandsAreWellFormedAndMeasured :=
  fun _ _ _ h => ⟨decode_wellFormed h, decode_taken h⟩

end Sys2Proof
end

section
/-! Which command words are illegal (R108), and the answer of a command in the words of the statements (R105, R106). -/

namespace Sys2Proof

open Sys2Proof.Machine Sys2Proof.Claims

theorem opcodeByte_toNat (w0 : Word) : (opcodeByte w0).toNat = opcodeNumber w0 := by
  have := w0.isLt
  simp only [opcodeByte, opcodeNumber, BitVec.extractLsb'_toNat, Nat.shiftRight_eq_div_pow]
  omega

theorem opcodeNumber_of_ofByte {w0 : Word} {op : Opcode} (h : Opcode.ofByte (opcodeByte w0) = some op) :
    opcodeNumber w0 = op.byte.toNat := by
  rw [← opcodeByte_toNat, Opcode.byte_of_ofByte h]

/-- The assigned opcodes are 0x01 to 0x0C (R93 to R104). -/
theorem Opcode.ofByte_eq_none_iff (b : Byte) : Opcode.ofByte b = none ↔ b.toNat = 0 ∨ 0x0D ≤ b.toNat := by
  simp only [Opcode.ofByte, Opcode.all, List.find?_eq_none, List.forall_mem_cons, List.not_mem_nil, Opcode.byte,
    beq_iff_eq, false_implies, implies_true, and_true]
  bv_omega

theorem ofByte_eq_none_iff_opcodeUnassigned (w0 : Word) :
    Opcode.ofByte (opcodeByte w0) = none ↔ opcodeUnassigned w0 := by
  rw [Opcode.ofByte_eq_none_iff, opcodeByte_toNat]

theorem reservedBits_byte (op : Opcode) : reservedBits op.byte.toNat = op.reservedWidth := by
  cases op <;> rfl

theorem byte_eq_one_iff (op : Opcode) : op.byte.toNat = 0x01 ↔ op = .setId := by
  cases op <;> decide

theorem bitAt_toNat (w0 : Word) (k : Nat) : (bitAt w0 k).toNat = w0.toNat / 2 ^ k % 2 := by
  rw [bitAt, ← BitVec.testBit_toNat, Nat.toNat_testBit]

/-- `SHF = 11` is the number 3 in bits 22:21 (R92, R108). -/
theorem shfReserved_iff (op : Opcode) (w0 : Word) :
    op.shfReserved w0 = true ↔ op = .setId ∧ w0.toNat / 2 ^ 21 % 4 = 3 := by
  have hhi := bitAt_toNat w0 22
  have hlo := bitAt_toNat w0 21
  rw [Opcode.shfReserved, Bool.and_eq_true, beq_iff_eq]
  refine and_congr_right fun _ => ?_
  cases h22 : bitAt w0 22 <;> cases h21 : bitAt w0 21 <;>
    simp only [h22, h21, Bool.toNat_true, Bool.toNat_false, shfOfCode, Option.isNone_none, Option.isNone_some,
      Bool.false_eq_true, true_iff, false_iff] at hhi hlo ⊢ <;> omega

/-- The operands a format describes are those the decoder asks for (R109). -/
theorem operandsOf_eq {w0 : Word} {op : Opcode} (h : Opcode.ofByte (opcodeByte w0) = some op) :
    operandsOf w0 = op.operandCount w0 := by
  rw [operandsOf, opcodeNumber_of_ofByte h]
  cases op with
  | setSecHdr => simp [Opcode.byte, Opcode.operandCount, bitAt_toNat]
  | _ => rfl

/-- The illegal words are those of R108: case a, or cases b and c. -/
theorem illegalWord_iff (w0 : Word) : illegalWord w0 = true ↔ opcodeUnassigned w0 ∨ formatIllegal w0 := by
  rw [formatIllegal, ← ofByte_eq_none_iff_opcodeUnassigned]
  cases hop : Opcode.ofByte (opcodeByte w0) with
  | none => simp [illegalWord, hop]
  | some op =>
    rw [illegalWord_of_ofByte hop, opcodeNumber_of_ofByte hop, reservedBits_byte, byte_eq_one_iff, Bool.or_eq_true,
      shfReserved_iff]
    simp [Opcode.reservedSet]

/-- SET_ID with `SHF = 11` has no legal command, whatever its operands (R108 case c). -/
theorem commandOf_of_shfReserved {op : Opcode} {w0 : Word} (h : op.shfReserved w0 = true) (operands : List Bits) :
    commandOf op w0 operands = none := by
  obtain ⟨rfl, hshf⟩ : op = .setId ∧ shfOfCode (bitAt w0 22) (bitAt w0 21) = none := by
    simpa [Opcode.shfReserved] using h
  match operands with
  | [] => rfl
  | [b] => simp [commandOf, hshf]
  | _ :: _ :: _ => rfl

/-- An illegal word of an assigned opcode is read as illegal, whatever its operands (R108 cases b and c). -/
theorem interpret_of_illegalWord {op : Opcode} {w0 : Word} (hop : Opcode.ofByte (opcodeByte w0) = some op)
    (h : illegalWord w0 = true) (operands : List Bits) : interpret op w0 operands = .illegal w0 operands := by
  rw [illegalWord_of_ofByte hop, Bool.or_eq_true] at h
  obtain hres | hshf := h
  · exact if_pos hres
  · rw [interpret, commandOf_of_shfReserved hshf, Option.getD_none, ite_self]

/-- An assigned opcode's illegal word consumes the operands of its format (R108 cases b and c). -/
theorem decode_of_formatIllegal {w0 : Word} {ws rest : List Word} {operands : List Bits} (h : formatIllegal w0)
    (hr : recvOperands (operandsOf w0) ws = .ok (operands, rest)) :
    decode (w0 :: ws) = .ok (.illegal w0 operands, rest) := by
  have hassigned : Opcode.ofByte (opcodeByte w0) ≠ none := fun hn =>
    h.1 ((ofByte_eq_none_iff_opcodeUnassigned w0).mp hn)
  obtain ⟨op, hop⟩ := Option.ne_none_iff_exists'.mp hassigned
  rw [operandsOf_eq hop] at hr
  simp [decode, hop, hr, interpret_of_illegalWord hop ((illegalWord_iff w0).mpr (.inr h))]

/-- What decodes to an illegal command is its own word, and that word is illegal (R108). -/
theorem decode_illegal {w0 w : Word} {ws rest : List Word} {operands : List Bits}
    (h : decode (w0 :: ws) = .ok (.illegal w operands, rest)) : w = w0 ∧ illegalWord w0 = true := by
  have hw : w = w0 := by
    obtain ⟨w', more, hws, ⟨-, hi, -⟩ | ⟨op, bs, -, -, hi⟩⟩ := decode_ok h <;> obtain ⟨rfl, -⟩ := List.cons.inj hws
    · cases hi
      rfl
    · exact word_eq_of_interpret_eq_illegal hi.symm
  subst hw
  have hwf := decode_wellFormed h
  simp only [Instr.wellFormed, Bool.and_eq_true] at hwf
  obtain ⟨⟨hillegal, -⟩, -⟩ := hwf
  exact ⟨rfl, hillegal⟩

end Sys2Proof

namespace Sys2Proof.Machine

open Sys2Proof.Claims

/-- A byte under a number shifted above it is their sum: no bit of the two meets. -/
theorem shiftLeft_eight_or_byte {n : Nat} (code : BitVec 8) (hn : n < 2 ^ 24) :
    BitVec.ofNat 32 n <<< 8 ||| code.setWidth 32 = BitVec.ofNat 32 (code.toNat + 256 * n) := by
  have hcode := code.isLt
  have hhigh : (BitVec.ofNat 32 n <<< 8).toNat = n <<< 8 := by
    simp only [BitVec.toNat_shiftLeft, BitVec.toNat_ofNat, Nat.shiftLeft_eq]
    omega
  apply BitVec.eq_of_toNat_eq
  rw [BitVec.toNat_or, hhigh, BitVec.toNat_setWidth_of_le (by decide), ← Nat.shiftLeft_add_eq_or_of_lt hcode,
    Nat.shiftLeft_eq, BitVec.toNat_ofNat]
  omega

/-- The status word is the sum of its fields, each in its place (R106). -/
theorem statusWord_eq_answerWord (code : BitVec 8) (s : State) : statusWord code s = answerWord code.toNat s := by
  have hflags : ((BitVec.ofBool s.pktValid).setWidth 32 <<< 10) ||| ((s.bstate.code).setWidth 32 <<< 8) =
      BitVec.ofNat 32 (bstateNumber s.bstate + 4 * if s.pkt.isSome then 1 else 0) <<< 8 := by
    rw [State.pktValid]
    cases s.pkt.isSome <;> cases s.bstate <;> rfl
  have hsmall : bstateNumber s.bstate + 4 * (if s.pkt.isSome then 1 else 0) < 2 ^ 24 := by
    cases s.pkt.isSome <;> cases s.bstate <;> decide
  rw [statusWord, hflags, shiftLeft_eight_or_byte code hsmall, answerWord]
  congr 1
  omega

/-- `finish` in the words of the statements (R205). -/
theorem finish_eq_finished (e : Status) (payload : List Word) (s : State) :
    finish e payload s = finished e.code.toNat payload s := by
  simp only [finish, sendAnswer, finished, statusWord_eq_answerWord, BitVec.ofNat_toNat, BitVec.setWidth_eq]
  rfl

end Sys2Proof.Machine

namespace Sys2Proof

open Sys2Proof.Machine Sys2Proof.Claims

/-- Settles O7: case a decodes to the word alone, cases b and c by `decode_of_formatIllegal`, nothing else by
`decode_illegal`, and the answer by `finish_eq_finished`. -/
theorem illegalCommandsAreRefusedWhole : Obligations.IllegalCommandsAreRefusedWhole := by
  refine ⟨fun w0 ws h => ?_, fun w0 ws rest operands => decode_of_formatIllegal, fun w0 w ws rest operands h => ?_,
    fun w operands s => congrArg _ (finish_eq_finished .illegalCommand [] s)⟩
  · simp [decode, (ofByte_eq_none_iff_opcodeUnassigned w0).mpr h]
  · obtain ⟨hw, hillegal⟩ := decode_illegal h
    exact ⟨hw, (illegalWord_iff w0).mp hillegal⟩

end Sys2Proof
end

section
/-! The one status word of every command (R105), and what follows it. -/

namespace Sys2Proof.Machine

open Sys2Proof.Claims

/-- From `s` to `t` one response has been appended, a status word of `t` and a payload, and no channel has moved. -/
structure Answers (s : State) (payload : List Word) (t : State) : Prop where
  outbox : t.outbox = s.outbox ++ statusWord t.lastStatus t :: payload
  cmdChan : t.cmdChan = s.cmdChan
  respChan : t.respChan = s.respChan

/-- `finish` answers for every state that has the channels and the pending response of `s` (R205). -/
theorem answers_finish {s u : State} (e : Status) (payload : List Word) (hout : u.outbox = s.outbox)
    (hcmd : u.cmdChan = s.cmdChan) (hresp : u.respChan = s.respChan) : Answers s payload (finish e payload u) :=
  ⟨congrArg (· ++ statusWord e.code u :: payload) hout, hcmd, hresp⟩

theorem SlotWrite.answers {s u : State} {i : Instr} (h : SlotWrite s i u) :
    Answers s [] (finish .ok [] { u with bstate := .populated }) := by
  cases h <;> exact answers_finish .ok [] rfl rfl rfl

/-- A setter is its body inside the setter frame, and the body does its own write (R150). -/
theorem exec_of_isSetter {i : Instr} (h : isSetter i) (s : State) :
    ∃ body, exec i s = .next (setter body s) ∧ ∀ u, body = .ok u → SlotWrite s i u := by
  cases i with
  | setId pt shf apid => exact ⟨_, rfl, fun u hu => bodySetId_ok hu⟩
  | setIdIdle pt => exact ⟨_, rfl, fun u hu => by cases hu; exact .identIdle pt⟩
  | setSeq sf count => exact ⟨_, rfl, fun u hu => bodySetSeq_ok hu⟩
  | setSecHdr tc anc => exact ⟨_, rfl, fun u hu => by cases hu; exact .header tc anc⟩
  | clrSecHdr => exact ⟨_, rfl, fun u hu => by cases hu; exact .noHeader⟩
  | setUserData ud => exact ⟨_, rfl, fun u hu => by cases hu; exact .userData ud⟩
  | setIdle b => exact ⟨_, rfl, fun u hu => by cases hu; exact .idle b⟩
  | build | newBuilder | pktLen | pktSerialize | getStatus | illegal => exact h.elim

theorem exec_answers_of_isSetter {i : Instr} (h : isSetter i) (s : State) :
    ∃ t, exec i s = .next t ∧ Answers s [] t := by
  obtain ⟨body, hexec, hbody⟩ := exec_of_isSetter h s
  refine ⟨_, hexec, ?_⟩
  obtain ⟨-, h⟩ | ⟨-, e, -, h⟩ | ⟨-, u, hu, h⟩ := setter_cases body s <;> rw [h]
  · exact answers_finish _ [] rfl rfl rfl
  · exact answers_finish e [] rfl rfl rfl
  · exact (hbody u hu).answers

theorem execBuild_answers (s : State) : ∃ t, execBuild s = .next t ∧ Answers s [] t := by
  obtain ⟨-, h⟩ | ⟨-, e, -, h⟩ | ⟨-, p, -, h⟩ := execBuildWith_cases Config.octetAlignCheck s
  · exact ⟨_, h, answers_finish _ [] rfl rfl rfl⟩
  · exact ⟨_, h, answers_finish e [] rfl rfl rfl⟩
  · exact ⟨_, h, answers_finish .ok [] rfl rfl rfl⟩

/-- An output command has payload words exactly when a packet is held (R201, R202). -/
theorem readPacket_answers {words : Packet → List Word} (hwords : ∀ p, words p ≠ []) (s : State) :
    ∃ payload, Answers s payload (readPacket words s) ∧ (payload ≠ [] ↔ s.pkt ≠ none) := by
  cases hpkt : s.pkt with
  | none => exact ⟨[], by simpa [readPacket, hpkt] using answers_finish .noPacket [] rfl rfl rfl, by simp⟩
  | some p =>
    exact ⟨words p, by simpa [readPacket, hpkt] using answers_finish .ok (words p) rfl rfl rfl, by simp [hwords p]⟩

/-- Every command that outputs no packet answers with the status word alone (R205). -/
theorem exec_answers_of_noOutput {i : Instr} (hlen : i ≠ .pktLen) (hser : i ≠ .pktSerialize) (s : State) :
    ∃ t, exec i s = .next t ∧ Answers s [] t := by
  cases i with
  | setId | setIdIdle | setSeq | setSecHdr | clrSecHdr | setUserData | setIdle =>
    exact exec_answers_of_isSetter (by exact trivial) s
  | build => exact execBuild_answers s
  | newBuilder => exact ⟨_, rfl, answers_finish .ok [] rfl rfl rfl⟩
  | pktLen => exact absurd rfl hlen
  | pktSerialize => exact absurd rfl hser
  | getStatus => exact ⟨_, rfl, rfl, rfl, rfl⟩
  | illegal => exact ⟨_, rfl, answers_finish .illegalCommand [] rfl rfl rfl⟩

/-- PKT_LEN and PKT_SERIALIZE answer with a payload exactly when a packet is held (R201, R202). -/
theorem exec_answers_of_output {i : Instr} (h : i = .pktLen ∨ i = .pktSerialize) (s : State) :
    ∃ t payload, exec i s = .next t ∧ Answers s payload t ∧ (payload ≠ [] ↔ s.pkt ≠ none) := by
  obtain rfl | rfl := h
  · obtain ⟨payload, h, hne⟩ := readPacket_answers (fun p => List.cons_ne_nil (lengthWord p) []) s
    exact ⟨_, payload, rfl, h, hne⟩
  · obtain ⟨payload, h, hne⟩ := readPacket_answers (fun p => List.cons_ne_nil (lengthWord p) (packWords p.bits)) s
    exact ⟨_, payload, rfl, h, hne⟩

end Sys2Proof.Machine

namespace Sys2Proof

open Sys2Proof.Machine Sys2Proof.Claims

/-- Settles O13: the output commands by `exec_answers_of_output`, every other one by `exec_answers_of_noOutput`, and the
status word in numbers by `statusWord_eq_answerWord`. -/
theorem everyCommandAnswersOneStatusWord : Obligations.EveryCommandAnswersOneStatusWord := by
  intro i s
  by_cases houtput : i = .pktLen ∨ i = .pktSerialize
  · obtain ⟨t, payload, hexec, ⟨hout, hcmd, hresp⟩, hpayload⟩ := exec_answers_of_output houtput s
    rw [statusWord_eq_answerWord] at hout
    exact ⟨t, payload, hexec, hout, by simpa [houtput] using hpayload, hcmd, hresp⟩
  · obtain ⟨hlen, hser⟩ := not_or.mp houtput
    obtain ⟨t, hexec, hout, hcmd, hresp⟩ := exec_answers_of_noOutput hlen hser s
    rw [statusWord_eq_answerWord] at hout
    exact ⟨t, [], hexec, hout, by simp [houtput], hcmd, hresp⟩

end Sys2Proof
end

section
/-! The primary header (R80 to R87): its fields at their offsets, and the packet length they give. -/

namespace Sys2Proof.Machine

open Sys2Proof.Claims

theorem packIdent_eq (i : Ident) : packIdent i = typeBit i.pt :: flagBit i.shf :: i.apid := by
  have htype : bitsOf 1 (ptCode i.pt) = [typeBit i.pt] := by cases i.pt <;> decide
  have hflag : bitsOf 1 (shfBit i.shf) = [flagBit i.shf] := by cases i.shf <;> decide
  rw [packIdent, htype, hflag]
  rfl

theorem packSeq_eq (c : SeqCtl) : packSeq c = seqBits c.sf ++ c.count := by
  have hflags : bitsOf 2 (sfCode c.sf) = seqBits c.sf := by cases c.sf <;> decide
  rw [packSeq, hflags]

@[simp] theorem seqBits_length (sf : SeqFlags) : (seqBits sf).length = 2 := by
  cases sf <;> rfl

/-- The primary header is its fields, one after another (R80). -/
theorem packPrimary_eq (i : Ident) (c : SeqCtl) (dl : Bits) : packPrimary i c dl =
    false :: false :: false :: typeBit i.pt :: flagBit i.shf :: (i.apid ++ (seqBits c.sf ++ (c.count ++ dl))) := by
  rw [packPrimary, packIdent_eq, packSeq_eq]
  simp [zeros, List.replicate]

theorem packPrimary_length {i : Ident} {c : SeqCtl} {dl : Bits} (hi : i.apid.length = 11) (hc : c.count.length = 14)
    (hdl : dl.length = 16) : (packPrimary i c dl).length = 48 := by
  simp [packPrimary_eq, hi, hc, hdl]

/-- The sequence flags begin at bit 16 (R85). -/
theorem packPrimary_drop_sixteen {i : Ident} (c : SeqCtl) (dl : Bits) (hi : i.apid.length = 11) :
    (packPrimary i c dl).drop 16 = seqBits c.sf ++ (c.count ++ dl) := by
  rw [packPrimary_eq]
  exact List.drop_left' hi

/-- The sequence count begins at bit 18 (R86). -/
theorem packPrimary_drop_eighteen {i : Ident} (c : SeqCtl) (dl : Bits) (hi : i.apid.length = 11) :
    (packPrimary i c dl).drop 18 = c.count ++ dl :=
  calc (packPrimary i c dl).drop 18 = ((packPrimary i c dl).drop 16).drop 2 := by rw [List.drop_drop]
    _ = (seqBits c.sf ++ (c.count ++ dl)).drop 2 := by rw [packPrimary_drop_sixteen c dl hi]
    _ = c.count ++ dl := List.drop_left' (seqBits_length c.sf)

/-- The Data Length field begins at bit 32 (R87). -/
theorem packPrimary_drop_thirtyTwo {i : Ident} {c : SeqCtl} (dl : Bits) (hi : i.apid.length = 11)
    (hc : c.count.length = 14) : (packPrimary i c dl).drop 32 = dl :=
  calc (packPrimary i c dl).drop 32 = ((packPrimary i c dl).drop 18).drop 14 := by rw [List.drop_drop]
    _ = (c.count ++ dl).drop 14 := by rw [packPrimary_drop_eighteen c dl hi]
    _ = dl := List.drop_left' hc

/-- A packet's bits 32 to 47 are its Data Length field (R87). -/
theorem serialize_dataLength {i : Ident} {c : SeqCtl} {dl : Bits} (d : DataField) (hi : i.apid.length = 11)
    (hc : c.count.length = 14) (hdl : dl.length = 16) :
    ((serialize (packPrimary i c dl) d).drop 32).take 16 = dl := by
  have hlen := packPrimary_length hi hc hdl
  rw [serialize, List.drop_append_of_le_length (by omega), packPrimary_drop_thirtyTwo dl hi hc, List.take_left' hdl]

theorem serialize_length {ph : Bits} (d : DataField) (hph : ph.length = 48) :
    (serialize ph d).length = packetLen d := by
  rw [serialize, List.length_append, hph, packDataField_length, packetLen, Config.phBits]

end Sys2Proof.Machine

namespace Sys2Proof

open Sys2Proof.Machine Sys2Proof.Claims

/-- Settles O39: the fields stand one after another (`packPrimary_eq`), so their lengths give their offsets. -/
theorem primaryHeaderLayout : Obligations.PrimaryHeaderLayout := by
  intro i c dl d hi hc hdl
  have hlen := packPrimary_length hi hc hdl
  refine ⟨List.take_left' hlen, List.drop_left' hlen, serialize_length d hlen, hlen, ?version, ?type, ?flag, ?apid, ?seq,
    ?count, packPrimary_drop_thirtyTwo dl hi hc⟩
  case version | type | flag => rw [packPrimary_eq]; rfl
  case apid => rw [packPrimary_eq]; exact List.take_left' hi
  case seq => rw [packPrimary_drop_sixteen c dl hi]; exact List.take_left' (seqBits_length c.sf)
  case count => rw [packPrimary_drop_eighteen c dl hi]; exact List.take_left' hc

/-- Settles O40: the Data Length field holds the data field's octets minus one, which 16 bits can hold because an
accepted data field is 1 to 65536 whole octets. -/
theorem packetLengthAgreesWithDataLength : Obligations.PacketLengthAgreesWithDataLength := by
  rintro ⟨bits⟩ ⟨i, c, d, hi, hc, ⟨hud, hmax, haligned, -, -⟩, rfl⟩
  have hlen : (serialize (packPrimary i c (bitsOf 16 (dataFieldLen d / 8 - 1))) d).length = 48 + dataFieldLen d :=
    serialize_length d (packPrimary_length hi hc (bitsOf_length 16 _))
  have hmin : d.ud.length ≤ dataFieldLen d := Nat.le_add_left _ _
  have hoctets : dataFieldLen d % 8 = 0 := haligned rfl
  have hfits : dataFieldLen d / 8 - 1 < 2 ^ 16 := by omega
  rw [hlen, serialize_dataLength d hi hc (bitsOf_length 16 _), valOf_bitsOf_of_lt hfits]
  omega

end Sys2Proof
end

section
/-! The field packers (R122 to R130): the Data Length field and its range, the packed identification and sequence control, and
the data field. -/

namespace Sys2Proof.Machine

open Sys2Proof.Claims

/-- Outside 1 to 65536 octets there is no Data Length field (R130, U3). -/
theorem dataLengthField_none {size : Nat} (h : size = 0 ∨ 65536 < size) : dataLengthField size = none := by
  have hrange : ¬(Config.minDfOctets ≤ size ∧ size ≤ Config.maxDataSize) := by
    simp only [Config.minDfOctets, Config.maxDataSize]
    omega
  exact if_neg hrange

/-- A commit whose data field has no Data Length field faults (R130, U3). -/
theorem commitBuild_fault {p : BuildPlan} (s : State) (h : dataLengthField (dataFieldLen p.data / 8) = none) :
    commitBuild p s = .fault .dataLengthRange := by
  rw [commitBuild, Config.octet, h]

/-- The packed secondary header of a data field, in the claims' own words. -/
theorem packOptSecHdr_eq (sh : Option SecHdr) : packOptSecHdr sh = (sh.map headerBits).getD [] := by
  cases sh with
  | none => rfl
  | some h => rfl

end Sys2Proof.Machine

namespace Sys2Proof

open Sys2Proof.Machine Sys2Proof.Claims

/-- Settles O38: a size of 1 to 65536, less one, is below `2 ^ 16`, so 16 bits carry it (`valOf_bitsOf_of_lt`); any other
size has no field, and a commit asked to use one faults (`commitBuild_fault`). -/
theorem dataLengthFieldHoldsSizeMinusOne : Obligations.DataLengthFieldHoldsSizeMinusOne := by
  intro size
  refine ⟨fun hmin hmax => ?inRange, dataLengthField_none, fun p s hsize hout => ?outOfRange⟩
  case inRange =>
    have hfits : size - 1 < 2 ^ 16 := by omega
    exact ⟨bitsOf 16 (size - 1), dataLengthField_some hmin hmax, rfl, bitsOf_length 16 _, valOf_bitsOf_of_lt hfits⟩
  case outOfRange =>
    exact commitBuild_fault s (hsize ▸ dataLengthField_none hout)

/-- Settles O41: the codes of each field are its wire bits (`packIdent_eq`, `packSeq_eq`), and the lengths are theirs and the
region's. -/
theorem packedFieldsHaveTheirBits : Obligations.PackedFieldsHaveTheirBits := by
  intro i c hapid hcount
  refine ⟨packIdent_eq i, ?identLength, packSeq_eq c, ?seqLength⟩
  case identLength => rw [packIdent_eq, List.length_cons, List.length_cons, hapid]
  case seqLength => rw [packSeq_eq, List.length_append, seqBits_length, hcount]

/-- Settles O42: the bits by the two kinds of header (`packOptSecHdr_eq`), and each length as the length of the packed bits
(`packDataField_length`, `packSecHdr_length`). -/
theorem dataFieldIsHeaderThenUserData : Obligations.DataFieldIsHeaderThenUserData := by
  intro sh ud
  have hbits : packDataField ⟨sh, ud⟩ = (sh.map headerBits).getD [] ++ ud := by rw [packDataField, packOptSecHdr_eq]
  refine ⟨hbits, ?fieldLength, fun h => ⟨rfl, ?headerLength⟩⟩
  case fieldLength => rw [← packDataField_length, hbits, List.length_append]
  case headerLength => rw [← packSecHdr_length, packSecHdr, List.length_append]

end Sys2Proof
end

section
/-! The setters on a consumed and on an open builder (R150 to R157): the setter frame in the words of the statements, the
two setters that check a length, and the write of a setter that succeeds. -/

namespace Sys2Proof.Machine

open Sys2Proof.Claims

/-- An error of the body on an open builder is answered, and writes no slot (R150). -/
theorem setter_error_of_open {s : State} (e : Status) (h : builderOpen s) :
    setter (.error e) s = finished e.code.toNat [] s := by
  rw [setter, (not_consumed_iff s).mpr h]
  exact finish_eq_finished e [] s

/-- The write of the body on an open builder populates it (R150). -/
theorem setter_ok_of_open {s : State} (u : State) (h : builderOpen s) :
    setter (.ok u) s = finished 0x00 [] { u with bstate := .populated } := by
  rw [setter, (not_consumed_iff s).mpr h]
  exact finish_eq_finished .ok [] { u with bstate := .populated }

/-- Every setter is refused on a consumed builder (R150, R229). -/
theorem exec_setter_of_consumed {i : Instr} {s : State} (hi : isSetter i) (h : builderConsumed s) :
    exec i s = .next (finished 0x08 [] s) := by
  obtain ⟨body, hexec, -⟩ := exec_of_isSetter hi s
  rw [hexec, setter_of_consumed body ((consumed_iff s).mpr h), finish_eq_finished]
  rfl

theorem bodySetId_of_length_eq {apid : Bits} (pt : PacketType) (shf : SecHdrFlag) (s : State) (h : apid.length = 11) :
    bodySetId pt shf apid s = .ok { s with idSlot := some ⟨pt, shf, apid⟩ } := by
  simp [bodySetId, identNew, Config.apidBits, h]

theorem bodySetId_of_length_ne {apid : Bits} (pt : PacketType) (shf : SecHdrFlag) (s : State) (h : apid.length ≠ 11) :
    bodySetId pt shf apid s = .error .apidLenMismatch := by
  simp [bodySetId, identNew, Config.apidBits, h]

theorem bodySetSeq_of_length_eq {count : Bits} (sf : SeqFlags) (s : State) (h : count.length = 14) :
    bodySetSeq sf count s = .ok { s with scSlot := some ⟨sf, count⟩ } := by
  simp [bodySetSeq, seqNew, Config.seqCountBits, h]

theorem bodySetSeq_of_length_ne {count : Bits} (sf : SeqFlags) (s : State) (h : count.length ≠ 14) :
    bodySetSeq sf count s = .error .sequenceControlLenMismatch := by
  simp [bodySetSeq, seqNew, Config.seqCountBits, h]

/-- The command of a write is the setter frame around that write. -/
theorem SlotWrite.exec_eq_setter {s u : State} {i : Instr} (hw : SlotWrite s i u) :
    exec i s = .next (setter (.ok u) s) := by
  cases hw with
  | ident pt shf apid hlen => rw [exec, execSetId, bodySetId_of_length_eq pt shf s hlen]
  | seq sf count hlen => rw [exec, execSetSeq, bodySetSeq_of_length_eq sf s hlen]
  | identIdle | header | noHeader | userData | idle => rfl

/-- On an open builder the command of a write performs it, populates the builder and answers OK (R150). -/
theorem SlotWrite.exec_of_open {s u : State} {i : Instr} (hw : SlotWrite s i u) (h : builderOpen s) :
    exec i s = .next (finished 0x00 [] { u with bstate := .populated }) := by
  rw [hw.exec_eq_setter, setter_ok_of_open u h]

theorem exec_setId_of_length_ne {s : State} {apid : Bits} (pt : PacketType) (shf : SecHdrFlag) (h : builderOpen s)
    (hlen : apid.length ≠ 11) : exec (.setId pt shf apid) s = .next (finished 0x05 [] s) := by
  rw [exec, execSetId, bodySetId_of_length_ne pt shf s hlen, setter_error_of_open _ h]
  rfl

theorem exec_setSeq_of_length_ne {s : State} {count : Bits} (sf : SeqFlags) (h : builderOpen s)
    (hlen : count.length ≠ 14) : exec (.setSeq sf count) s = .next (finished 0x06 [] s) := by
  rw [exec, execSetSeq, bodySetSeq_of_length_ne sf s hlen, setter_error_of_open _ h]
  rfl

end Sys2Proof.Machine

namespace Sys2Proof

open Sys2Proof.Machine Sys2Proof.Claims

/-- Settles O15: refused by the setter frame, rejected by `exec_setId_of_length_ne`, else the write of the identification. -/
theorem setIdStoresOrRejectsIdentification : Obligations.SetIdStoresOrRejectsIdentification :=
  fun pt shf apid _ =>
    ⟨exec_setter_of_consumed trivial, exec_setId_of_length_ne pt shf,
      fun hopen hlen => (SlotWrite.ident pt shf apid hlen).exec_of_open hopen⟩

/-- Settles O16: the write of the idle identification, which has eleven ones by definition. -/
theorem setIdIdleStoresIdleIdentification : Obligations.SetIdIdleStoresIdleIdentification :=
  fun pt _ => ⟨exec_setter_of_consumed trivial, (SlotWrite.identIdle pt).exec_of_open⟩

/-- Settles O17: refused by the setter frame, rejected by `exec_setSeq_of_length_ne`, else the write of the sequence
control. -/
theorem setSeqStoresOrRejectsSequenceControl : Obligations.SetSeqStoresOrRejectsSequenceControl :=
  fun sf count _ =>
    ⟨exec_setter_of_consumed trivial, exec_setSeq_of_length_ne sf,
      fun hopen hlen => (SlotWrite.seq sf count hlen).exec_of_open hopen⟩

/-- Settles O18: both commands write the whole header slot. -/
theorem secondaryHeaderSettersReplaceWholeHeader : Obligations.SecondaryHeaderSettersReplaceWholeHeader :=
  fun tc anc _ =>
    ⟨fun h => ⟨exec_setter_of_consumed trivial h, exec_setter_of_consumed trivial h⟩,
      fun h => ⟨(SlotWrite.header tc anc).exec_of_open h, SlotWrite.noHeader.exec_of_open h⟩⟩

/-- Settles O19: the write of the user data has no condition on its length. -/
theorem setUserDataStoresAnyLength : Obligations.SetUserDataStoresAnyLength :=
  fun ud _ => ⟨exec_setter_of_consumed trivial, (SlotWrite.userData ud).exec_of_open⟩

/-- Settles O20: the write of the idle flag. -/
theorem setIdleStoresFlag : Obligations.SetIdleStoresFlag :=
  fun b _ => ⟨exec_setter_of_consumed trivial, (SlotWrite.idle b).exec_of_open⟩

end Sys2Proof
end

section
/-! BUILD in the words of the statements (R170 to R180): the data field it makes, which check each of its errors comes from,
and the packet it commits. -/

namespace Sys2Proof.Machine

open Sys2Proof.Claims

theorem idleOverride_eq_effective (s : State) (i : Ident) : idleOverride s.idle i = effective s i := rfl

theorem headerMissing_iff (s : State) (i : Ident) :
    headerMissing (effective s i) s.shSlot = true ↔ headerInsubstantial s i := by
  have hempty : optSecHdrLen s.shSlot = 0 ↔ (s.shSlot.map headerBits).getD [] = [] := by
    rw [← packOptSecHdr_eq, ← packOptSecHdr_length, List.length_eq_zero_iff]
  simp [headerMissing, hempty]

/-- The data field of BUILD: the header that the flag attaches, and the user data (R174). -/
def buildData (s : State) (i : Ident) : DataField := attach (effective s i) s.shSlot s.udSlot

theorem buildData_ud (s : State) (i : Ident) : (buildData s i).ud = userBits s := rfl

theorem packOptSecHdr_buildData (s : State) (i : Ident) : packOptSecHdr (buildData s i).sh = attachedBits s i := by
  rw [packOptSecHdr_eq, buildData, attach, attachedBits]
  split_ifs <;> rfl

theorem packDataField_buildData (s : State) (i : Ident) :
    packDataField (buildData s i) = attachedBits s i ++ userBits s := by
  rw [packDataField, packOptSecHdr_buildData, buildData_ud]

theorem dataFieldLen_buildData (s : State) (i : Ident) : dataFieldLen (buildData s i) = dataBits s i := by
  rw [← packDataField_length, packDataField_buildData, List.length_append, dataBits]

theorem checkData_buildData (align : Bool) (s : State) (i : Ident) :
    checkData align (buildData s i) =
      if dataBits s i > 524288 then .error .maxDataSizeExedded
      else if (userBits s).length < 8 then .error .minDataLen
      else if align = true ∧ dataBits s i % 8 ≠ 0 then .error .dataFieldNotOctetAligned
      else .ok (buildData s i) := by
  simp [checkData, dataFieldLen_buildData, buildData_ud, Config.maxDfBits, Config.octet]

variable {s : State} {i : Ident} {c : SeqCtl}

/-- The checks that follow the mandatory fields, in their order (R173 to R178). -/
theorem planBuild_eq (align : Bool) (hid : s.idSlot = some i) (hsc : s.scSlot = some c) :
    planBuild align s =
      if headerInsubstantial s i then .error .secondaryHeaderNotPresent
      else if dataBits s i > 524288 then .error .maxDataSizeExedded
      else if (userBits s).length < 8 then .error .minDataLen
      else if align = true ∧ dataBits s i % 8 ≠ 0 then .error .dataFieldNotOctetAligned
      else .ok ⟨effective s i, c, buildData s i⟩ := by
  simp only [planBuild, hid, hsc, checkBuild, idleOverride_eq_effective, headerMissing_iff]
  rw [← buildData, checkData_buildData]
  split_ifs <;> rfl

theorem planBuild_mandatoryFieldNotPresent_iff (align : Bool) (s : State) :
    planBuild align s = .error .mandatoryFieldNotPresent ↔ fieldMissing s := by
  cases hid : s.idSlot with
  | none => simp [planBuild, fieldMissing, hid]
  | some i =>
    cases hsc : s.scSlot with
    | none => simp [planBuild, fieldMissing, hid, hsc]
    | some c =>
      rw [planBuild_eq align hid hsc]
      split_ifs <;> simp [fieldMissing, hid, hsc]

section bothFieldsPresent
variable {align : Bool} (hid : s.idSlot = some i) (hsc : s.scSlot = some c)
include hid hsc

theorem planBuild_secondaryHeaderNotPresent_iff :
    planBuild align s = .error .secondaryHeaderNotPresent ↔ headerInsubstantial s i := by
  rw [planBuild_eq align hid hsc]
  split_ifs with hsub
  · exact iff_of_true rfl hsub
  all_goals exact iff_of_false nofun hsub

variable (hsub : ¬ headerInsubstantial s i)
include hsub

theorem planBuild_maxDataSizeExedded_iff :
    planBuild align s = .error .maxDataSizeExedded ↔ dataBits s i > 524288 := by
  rw [planBuild_eq align hid hsc, if_neg hsub]
  split_ifs with hmax <;> simp [hmax]

variable (hmax : dataBits s i ≤ 524288)
include hmax

theorem planBuild_minDataLen_iff : planBuild align s = .error .minDataLen ↔ (userBits s).length < 8 := by
  rw [planBuild_eq align hid hsc, if_neg hsub, if_neg hmax.not_gt]
  split_ifs with hmin <;> simp [hmin]

/-- With the other checks passed, the octet alignment decides between an error and a plan (R178). -/
theorem planBuild_of_checked (hmin : 8 ≤ (userBits s).length) :
    planBuild align s =
      if align = true ∧ dataBits s i % 8 ≠ 0 then .error .dataFieldNotOctetAligned
      else .ok ⟨effective s i, c, buildData s i⟩ := by
  rw [planBuild_eq align hid hsc, if_neg hsub, if_neg hmax.not_gt, if_neg hmin.not_gt]

end bothFieldsPresent

/-- The packet of BUILD is its wire image (R180). -/
theorem packet_bits_eq_wireImage (s : State) (i : Ident) (c : SeqCtl) :
    (BuildPlan.packet ⟨effective s i, c, buildData s i⟩).bits =
      wireImage (effective s i) c (attachedBits s i) (userBits s) := by
  simp only [BuildPlan.packet, serialize, packPrimary_eq, packDataField_buildData, dataFieldLen_buildData, dataBits,
    wireImage, bit, List.cons_append, List.nil_append, List.append_assoc]

theorem effective_apid_length (s : State) (h : i.apid.length = 11) : (effective s i).apid.length = 11 := by
  unfold effective
  split_ifs
  · exact List.length_replicate
  · exact h

/-- The packet of BUILD has `48 + L` bits (R180). -/
theorem packet_bits_length (s : State) (hi : i.apid.length = 11) (hc : c.count.length = 14) :
    (BuildPlan.packet ⟨effective s i, c, buildData s i⟩).bits.length = 48 + dataBits s i := by
  have hheader := packPrimary_length (effective_apid_length s hi) hc (bitsOf_length 16 (dataBits s i / 8 - 1))
  rw [BuildPlan.packet, dataFieldLen_buildData, serialize_length _ hheader, packetLen, dataFieldLen_buildData,
    Config.phBits]

end Sys2Proof.Machine
end

section
/-! The outcomes of BUILD on an open builder (R170, R180, R181): failing with a code, or committing its packet. -/

namespace Sys2Proof.Machine

open Sys2Proof.Claims

/-- The codes of R107 are the numbers of their status kinds, so they are distinct. -/
theorem Status.code_injective : Function.Injective Status.code :=
  Function.LeftInverse.injective (g := fun code => Status.ofNat code.toNat) fun e => by cases e <;> rfl

/-- BUILD answers `code`, leaves the builder Failed and keeps the packet (R181). -/
def BuildFails (s : State) (code : BitVec 8) : Prop :=
  ∃ t, exec .build s = .next t ∧ t.bstate = .failed ∧ t.pkt = s.pkt ∧ t.lastStatus = code ∧
    t.outbox = s.outbox ++ [answerWord code.toNat t]

variable {s : State} {i : Ident} {c : SeqCtl} {e : Status}

theorem execBuildWith_of_error {align : Bool} (hopen : builderOpen s) (h : planBuild align s = .error e) :
    execBuildWith align s = .next (failBuild e s) := by
  simp [execBuildWith, (not_consumed_iff s).mpr hopen, h]

theorem execBuildWith_of_ok {align : Bool} {p : BuildPlan} (hopen : builderOpen s) (h : planBuild align s = .ok p) :
    execBuildWith align s = .next (finish .ok [] { s with pkt := some p.packet, bstate := .built }) := by
  obtain ⟨hcons, -⟩ | ⟨-, e, he, -⟩ | ⟨-, p', hp', hexec⟩ := execBuildWith_cases align s
  · simp [(not_consumed_iff s).mpr hopen] at hcons
  · cases h.symm.trans he
  · cases h.symm.trans hp'
    exact hexec

theorem failBuild_outbox_eq (e : Status) (s : State) :
    (failBuild e s).outbox = s.outbox ++ [answerWord e.code.toNat (failBuild e s)] := by
  rw [failBuild_outbox, statusWord_eq_answerWord]
  rfl

theorem buildFails_of_error (hopen : builderOpen s) (h : planBuild true s = .error e) : BuildFails s e.code :=
  ⟨failBuild e s, execBuildWith_of_error hopen h, rfl, rfl, rfl, failBuild_outbox_eq e s⟩

/-- BUILD does not answer the code of an error that its checks do not give. -/
theorem build_lastStatus_ne (hopen : builderOpen s) (hok : e ≠ .ok) (h : planBuild true s ≠ .error e) :
    ∃ t, exec .build s = .next t ∧ t.lastStatus ≠ e.code := by
  cases hp : planBuild true s with
  | error e' =>
    have hne : e' ≠ e := fun he => h (he ▸ hp)
    exact ⟨_, execBuildWith_of_error hopen hp, Status.code_injective.ne hne⟩
  | ok p => exact ⟨_, execBuildWith_of_ok hopen hp, Status.code_injective.ne hok.symm⟩

/-- A check that gives its error exactly when `P` makes BUILD fail with its code then, and answer another code else. -/
theorem build_reports_iff {P : Prop} (hopen : builderOpen s) (hok : e ≠ .ok) (h : planBuild true s = .error e ↔ P) :
    (P → BuildFails s e.code) ∧ (¬ P → ∃ t, exec .build s = .next t ∧ t.lastStatus ≠ e.code) :=
  ⟨fun hP => buildFails_of_error hopen (h.mpr hP), fun hP => build_lastStatus_ne hopen hok (mt h.mp hP)⟩

/-- BUILD whose checks all pass commits the wire image, of `48 + L` bits, and answers OK (R180). -/
theorem execBuildWith_commits (align : Bool) (hopen : builderOpen s) (hid : s.idSlot = some i) (hsc : s.scSlot = some c)
    (hsub : ¬ headerInsubstantial s i) (hmax : dataBits s i ≤ 524288) (hmin : 8 ≤ (userBits s).length)
    (halign : align = true → dataBits s i % 8 = 0) :
    ∃ t p, execBuildWith align s = .next t ∧ t.bstate = .built ∧ t.lastStatus = 0x00 ∧
      t.outbox = s.outbox ++ [answerWord 0x00 t] ∧ t.pkt = some p ∧
      p.bits = wireImage (effective s i) c (attachedBits s i) (userBits s) ∧
      (i.apid.length = 11 → c.count.length = 14 → p.bits.length = 48 + dataBits s i) := by
  have hplan : planBuild align s = .ok ⟨effective s i, c, buildData s i⟩ := by
    rw [planBuild_of_checked hid hsc hsub hmax hmin, if_neg fun h => h.2 (halign h.1)]
  have hexec := execBuildWith_of_ok hopen hplan
  rw [finish_eq_finished] at hexec
  exact ⟨_, _, hexec, rfl, rfl, rfl, rfl, packet_bits_eq_wireImage s i c, packet_bits_length s⟩

theorem effective_of_idle (i : Ident) (h : s.idle = true) :
    effective s i = ⟨i.pt, .idle, List.replicate 11 true⟩ := by
  rw [effective, if_pos h]

theorem attachedBits_of_idle (i : Ident) (h : s.idle = true) : attachedBits s i = [] := by
  simp [attachedBits, effective_of_idle i h]

/-- The idle override leaves no Present flag, so BUILD misses no header (R172, R173). -/
theorem not_headerInsubstantial_of_idle (i : Ident) (h : s.idle = true) : ¬ headerInsubstantial s i := by
  simp [effective_of_idle i h]

theorem dataBits_of_idle (i : Ident) (h : s.idle = true) : dataBits s i = (userBits s).length := by
  simp [dataBits, attachedBits_of_idle i h]

/-- The first 16 bits of a packet are the version and the identification (R80 to R84). -/
theorem wireImage_take_sixteen (c : SeqCtl) (header user : Bits) (hi : i.apid.length = 11) :
    (wireImage i c header user).take 16 = [false, false, false, typeBit i.pt, flagBit i.shf] ++ i.apid := by
  simp [wireImage, bit, List.take_left' hi]

/-- Every command but NEW_BUILDER leaves a Failed builder Failed (R34, R181). -/
theorem exec_bstate_of_failed {cmd : Instr} {t : State} (hs : s.bstate = .failed) (hcmd : cmd ≠ .newBuilder)
    (h : exec cmd s = .next t) : t.bstate = .failed := by
  have hcons : s.consumed = true := (consumed_iff s).mpr (.inr hs)
  cases execEffect_of_next h with
  | answered | reported => exact hs
  | stored hopen | built _ hopen => simp [hcons] at hopen
  | buildFailed => rfl
  | emptied hnew => exact absurd hnew hcmd

/-- BUILD on a consumed builder is refused (R181, R229). -/
theorem exec_build_of_consumed (h : builderConsumed s) : exec .build s = .next (finished 0x08 [] s) := by
  rw [exec, execBuild_of_consumed ((consumed_iff s).mpr h), finish_eq_finished]
  rfl

/-- BUILD that answers an error on an open builder has failed (R181). -/
theorem eq_failBuild_of_lastStatus_ne {t : State} (hopen : builderOpen s) (h : exec .build s = .next t)
    (ht : t.lastStatus ≠ 0x00) : ∃ e, t = failBuild e s := by
  cases hp : planBuild true s with
  | error e =>
    cases h.symm.trans (execBuildWith_of_error hopen hp)
    exact ⟨e, rfl⟩
  | ok p =>
    cases h.symm.trans (execBuildWith_of_ok hopen hp)
    exact absurd rfl ht

end Sys2Proof.Machine

namespace Sys2Proof

open Sys2Proof.Machine Sys2Proof.Claims

/-- Settles O21: only step a gives its error. -/
theorem buildNeedsMandatoryFields : Obligations.BuildNeedsMandatoryFields := fun s hopen =>
  build_reports_iff hopen (by decide) (planBuild_mandatoryFieldNotPresent_iff true s)

/-- Settles O22: with both mandatory fields, only step d gives its error, and exactly on an insubstantial header. -/
theorem buildNeedsSubstantiveSecondaryHeader : Obligations.BuildNeedsSubstantiveSecondaryHeader :=
  fun _ _ _ hopen hid hsc => build_reports_iff hopen (by decide) (planBuild_secondaryHeaderNotPresent_iff hid hsc)

/-- Settles O23: step g compares `L` before anything looks at the user data's length. -/
theorem buildRejectsOversizedDataField : Obligations.BuildRejectsOversizedDataField := by
  intro s i c hopen hid hsc hsub
  rw [← Nat.not_lt]
  exact build_reports_iff hopen (by decide) (planBuild_maxDataSizeExedded_iff hid hsc hsub)

/-- Settles O24: past step g, step j decides on the user data alone. -/
theorem buildRejectsShortUserData : Obligations.BuildRejectsShortUserData := by
  intro s i c hopen hid hsc hsub hmax
  rw [← Nat.not_lt]
  exact build_reports_iff hopen (by decide) (planBuild_minDataLen_iff hid hsc hsub hmax)

/-- Settles O25: the alignment check is the only one left; on it is an error, off it is passed. -/
theorem fractionalOctetsUnderBothReadings : Obligations.FractionalOctetsUnderBothReadings := by
  intro s i c hopen hid hsc hsub hmax hmin hfrac
  have herror : planBuild true s = .error .dataFieldNotOctetAligned := by
    rw [planBuild_of_checked hid hsc hsub hmax hmin, if_pos ⟨rfl, hfrac⟩]
  exact ⟨buildFails_of_error hopen herror, execBuildWith_commits false hopen hid hsc hsub hmax hmin nofun⟩

/-- Settles O26: this hardware's BUILD is the one with the alignment check on. -/
theorem buildCommitsWireImage : Obligations.BuildCommitsWireImage :=
  fun _ _ _ hopen hid hsc hsub hmax hmin halign =>
    execBuildWith_commits true hopen hid hsc hsub hmax hmin fun _ => halign

/-- Settles O27: under the override the commit's identification is the idle one and its data field the user data. -/
theorem idleOverrideReplacesIdentification : Obligations.IdleOverrideReplacesIdentification := by
  intro s i c hopen hidle hid hsc hmin hmax halign
  rw [← dataBits_of_idle i hidle] at hmax halign
  obtain ⟨t, p, hexec, hbuilt, -, -, hpkt, hbits, -⟩ := execBuildWith_commits true hopen hid hsc
    (not_headerInsubstantial_of_idle i hidle) hmax hmin fun _ => halign
  rw [effective_of_idle i hidle, attachedBits_of_idle i hidle] at hbits
  refine ⟨t, p, hexec, hbuilt, hpkt, hbits, ?_⟩
  rw [hbits, wireImage_take_sixteen c [] (userBits s) List.length_replicate]
  rfl

/-- Settles O28: the failed builder is consumed (`exec_setter_of_consumed`, `exec_build_of_consumed`), and only
NEW_BUILDER moves it (`exec_bstate_of_failed`). -/
theorem failedBuildConsumesBuilder : Obligations.FailedBuildConsumesBuilder := by
  intro s t hopen h ht
  obtain ⟨e, rfl⟩ := eq_failBuild_of_lastStatus_ne hopen h ht
  have hfailed : (failBuild e s).bstate = .failed := rfl
  refine ⟨hfailed, rfl, ?refused, fun cmd u => exec_bstate_of_failed hfailed, ⟨_, rfl, .inl rfl⟩⟩
  case refused =>
    rintro cmd (hset | rfl)
    · exact exec_setter_of_consumed hset (.inr hfailed)
    · exact exec_build_of_consumed (.inr hfailed)

/-- Settles O29: a plan's data field has 8 to 524288 bits whatever its alignment (`planBuild_ok`), and BUILD has three
outcomes, each a next state (`execBuildWith_cases`). -/
theorem buildAsksDataLengthInRange : Obligations.BuildAsksDataLengthInRange := by
  intro align s
  refine ⟨fun p hp => ?range, ?next⟩
  case range =>
    obtain ⟨i, -, -, -, -, -, hmax, hmin, -⟩ := planBuild_ok hp
    have hud : p.data.ud.length ≤ dataFieldLen p.data := Nat.le_add_left _ _
    omega
  case next =>
    obtain ⟨-, h⟩ | ⟨-, e, -, h⟩ | ⟨-, p, -, h⟩ := execBuildWith_cases align s <;> exact ⟨_, h⟩

end Sys2Proof
end

section
/-! The control and output commands (R200 to R203): their answers in the words of the statements, and the words that carry a
packet. -/

namespace Sys2Proof.Machine

open Sys2Proof.Claims

/-- Appending a response, in the words of the statements (R105). -/
theorem sendAnswer_eq (code : BitVec 8) (payload : List Word) (s : State) :
    sendAnswer code payload s = { s with outbox := s.outbox ++ answerWord code.toNat s :: payload } := by
  rw [sendAnswer, statusWord_eq_answerWord]

/-- Without a packet an output command answers NoPacket (R201, R202). -/
theorem readPacket_of_none (payload : Packet → List Word) {s : State} (h : s.pkt = none) :
    readPacket payload s = finished 0x09 [] s := by
  simp only [readPacket, h]
  exact finish_eq_finished .noPacket [] s

/-- With a packet an output command answers OK and its payload (R201, R202). -/
theorem readPacket_of_some (payload : Packet → List Word) {s : State} {p : Packet} (h : s.pkt = some p) :
    readPacket payload s = finished 0x00 (payload p) s := by
  simp only [readPacket, h]
  exact finish_eq_finished .ok (payload p) s

/-- The length of a packet that is no longer than the longest one fits the word that answers it (R89, R201). -/
theorem lengthWord_toNat {p : Packet} (h : p.bits.length ≤ 524336) : (lengthWord p).toNat = p.bits.length :=
  Nat.mod_eq_of_lt (by omega)

end Sys2Proof.Machine

namespace Sys2Proof

open Sys2Proof.Machine Sys2Proof.Claims

/-- Settles O34: the answer is `finish_eq_finished` on the emptied builder. -/
theorem newBuilderEmptiesBuilderKeepsPacket : Obligations.NewBuilderEmptiesBuilderKeepsPacket :=
  fun _ => congrArg Host.Outcome.next (finish_eq_finished .ok [] _)

/-- Settles O35: the packet decides the answer, and its length fits the one word. -/
theorem pktLenAnswersLengthInBits : Obligations.PktLenAnswersLengthInBits := fun _ =>
  ⟨fun hnone => congrArg Host.Outcome.next (readPacket_of_none _ hnone),
    fun p hsome hlen => ⟨lengthWord p, congrArg Host.Outcome.next (readPacket_of_some _ hsome), lengthWord_toNat hlen⟩⟩

/-- Settles O36: the words after the length are `packWords` of the packet, which unpack to its bits and zero filler
(`unpackWords_packWords`). -/
theorem pktSerializeAnswersPacketBits : Obligations.PktSerializeAnswersPacketBits := by
  refine fun s => ⟨fun hnone => congrArg Host.Outcome.next (readPacket_of_none _ hnone), fun p hsome hlen => ?_⟩
  have hexec : exec .pktSerialize s = .next (finished 0x00 (lengthWord p :: packWords p.bits) s) :=
    congrArg Host.Outcome.next (readPacket_of_some _ hsome)
  have hcount : (packWords p.bits).length = wordsFor p.bits.length := packWords_length p.bits
  refine ⟨lengthWord p, packWords p.bits, hexec, lengthWord_toNat hlen, hcount, ?_⟩
  rw [hcount]
  exact unpackWords_packWords p.bits

/-- Settles O37: GET_STATUS only appends its response (`sendAnswer_eq`). -/
theorem getStatusAnswersWithoutWriting : Obligations.GetStatusAnswersWithoutWriting :=
  fun s => congrArg Host.Outcome.next (sendAnswer_eq s.lastStatus [] s)

end Sys2Proof
end

section
/-! The code a command answers is the first error of R232 that applies to it: on a consumed builder (R229), and then by
kind of command. -/

namespace Sys2Proof.Machine

open Sys2Proof.Claims

theorem not_builderConsumed_of_open {s : State} (h : builderOpen s) : ¬ builderConsumed s := by
  rw [builderConsumed, ← consumed_iff, (not_consumed_iff s).mpr h]
  exact Bool.false_ne_true

theorem builderOpen_of_not_consumed {s : State} (h : ¬ builderConsumed s) : builderOpen s :=
  (not_consumed_iff s).mp (Bool.eq_false_iff.mpr (mt (consumed_iff s).mp h))

/-- The setters and BUILD are refused on a consumed builder (R229). -/
theorem exec_of_consumed {i : Instr} {s : State} (hi : isSetter i ∨ i = .build) (h : builderConsumed s) :
    exec i s = .next (finished 0x08 [] s) := by
  obtain hset | rfl := hi
  · exact exec_setter_of_consumed hset h
  · exact exec_build_of_consumed h

/-- The command ends with its first error of R232 as its code, 0 when there is none. -/
def ReportsFirstError (i : Instr) (s : State) : Prop :=
  ∃ u payload, exec i s = .next (finished (firstError i s) payload u)

theorem reportsFirstError_of_finished {i : Instr} {s u : State} {payload : List Word} {code : Nat}
    (hcode : firstError i s = code) (hexec : exec i s = .next (finished code payload u)) : ReportsFirstError i s :=
  ⟨u, payload, hcode ▸ hexec⟩

theorem ReportsFirstError.lastStatus {i : Instr} {s t : State} (h : ReportsFirstError i s) (ht : exec i s = .next t) :
    t.lastStatus = BitVec.ofNat 8 (firstError i s) := by
  obtain ⟨u, payload, hexec⟩ := h
  cases ht.symm.trans hexec
  rfl

theorem firstError_of_consumed {i : Instr} {s : State} (hi : isSetter i ∨ i = .build) (h : builderConsumed s) :
    firstError i s = 0x08 := by
  cases i with
  | setId | setIdIdle | setSeq | setSecHdr | clrSecHdr | setUserData | setIdle | build => exact if_pos h
  | newBuilder | pktLen | pktSerialize | getStatus | illegal => simp [isSetter] at hi

theorem reportsFirstError_of_consumed {i : Instr} {s : State} (hi : isSetter i ∨ i = .build) (h : builderConsumed s) :
    ReportsFirstError i s :=
  reportsFirstError_of_finished (firstError_of_consumed hi h) (exec_of_consumed hi h)

/-! ### The setters (R150 to R157) -/

section openSetter
variable {i : Instr} {s u : State} (hopen : builderOpen s)
include hopen

/-- A setter that can write its slot has no error. -/
theorem SlotWrite.firstError_of_open (hw : SlotWrite s i u) : firstError i s = 0 := by
  have hcons := not_builderConsumed_of_open hopen
  cases hw with
  | ident pt shf apid hlen => rw [firstError, if_neg hcons, if_neg (not_not.mpr hlen)]
  | seq sf count hlen => rw [firstError, if_neg hcons, if_neg (not_not.mpr hlen)]
  | identIdle | header | noHeader | userData | idle => exact if_neg hcons

theorem SlotWrite.reportsFirstError_of_open (hw : SlotWrite s i u) : ReportsFirstError i s :=
  reportsFirstError_of_finished (hw.firstError_of_open hopen) (hw.exec_of_open hopen)

theorem reportsFirstError_setId_of_open (pt : PacketType) (shf : SecHdrFlag) (apid : Bits) :
    ReportsFirstError (.setId pt shf apid) s := by
  by_cases hlen : apid.length = 11
  · exact (SlotWrite.ident pt shf apid hlen).reportsFirstError_of_open hopen
  · have hcode : firstError (.setId pt shf apid) s = 0x05 := by
      rw [firstError, if_neg (not_builderConsumed_of_open hopen), if_pos hlen]
    exact reportsFirstError_of_finished hcode (exec_setId_of_length_ne pt shf hopen hlen)

theorem reportsFirstError_setSeq_of_open (sf : SeqFlags) (count : Bits) : ReportsFirstError (.setSeq sf count) s := by
  by_cases hlen : count.length = 14
  · exact (SlotWrite.seq sf count hlen).reportsFirstError_of_open hopen
  · have hcode : firstError (.setSeq sf count) s = 0x06 := by
      rw [firstError, if_neg (not_builderConsumed_of_open hopen), if_pos hlen]
    exact reportsFirstError_of_finished hcode (exec_setSeq_of_length_ne sf hopen hlen)

end openSetter

theorem reportsFirstError_of_isSetter {i : Instr} (hi : isSetter i) (s : State) : ReportsFirstError i s := by
  by_cases hcons : builderConsumed s
  · exact reportsFirstError_of_consumed (.inl hi) hcons
  · have hopen := builderOpen_of_not_consumed hcons
    cases i with
    | setId pt shf apid => exact reportsFirstError_setId_of_open hopen pt shf apid
    | setSeq sf count => exact reportsFirstError_setSeq_of_open hopen sf count
    | setIdIdle pt => exact (SlotWrite.identIdle pt).reportsFirstError_of_open hopen
    | setSecHdr tc anc => exact (SlotWrite.header tc anc).reportsFirstError_of_open hopen
    | clrSecHdr => exact SlotWrite.noHeader.reportsFirstError_of_open hopen
    | setUserData ud => exact (SlotWrite.userData ud).reportsFirstError_of_open hopen
    | setIdle b => exact (SlotWrite.idle b).reportsFirstError_of_open hopen
    | build | newBuilder | pktLen | pktSerialize | getStatus | illegal => exact hi.elim

/-! ### BUILD (R170 to R180) -/

/-- The status BUILD answers with, by the outcome of its checks: OK for a plan. -/
def planStatus : Except Status BuildPlan → Status
  | .error e => e
  | .ok _ => .ok

theorem exec_build_of_open {s : State} (hopen : builderOpen s) :
    ∃ u, exec .build s = .next (finished (planStatus (planBuild true s)).code.toNat [] u) := by
  cases hplan : planBuild true s with
  | error e =>
    have hexec := execBuildWith_of_error hopen hplan
    rw [failBuild, finish_eq_finished] at hexec
    exact ⟨_, hexec⟩
  | ok p =>
    have hexec := execBuildWith_of_ok hopen hplan
    rw [finish_eq_finished] at hexec
    exact ⟨_, hexec⟩

/-- The checks of BUILD stand in the order of R232. -/
theorem firstError_build_of_open {s : State} (hopen : builderOpen s) :
    firstError .build s = (planStatus (planBuild true s)).code.toNat := by
  rw [firstError, if_neg (not_builderConsumed_of_open hopen)]
  cases hid : s.idSlot with
  | none =>
    rw [(planBuild_mandatoryFieldNotPresent_iff true s).mpr (.inl hid)]
    rfl
  | some i =>
    cases hsc : s.scSlot with
    | none =>
      rw [(planBuild_mandatoryFieldNotPresent_iff true s).mpr (.inr hsc)]
      rfl
    | some c =>
      rw [planBuild_eq true hid hsc]
      simp only [true_and]
      split_ifs <;> rfl

theorem reportsFirstError_build (s : State) : ReportsFirstError .build s := by
  by_cases hcons : builderConsumed s
  · exact reportsFirstError_of_consumed (.inr rfl) hcons
  · have hopen := builderOpen_of_not_consumed hcons
    obtain ⟨u, hexec⟩ := exec_build_of_open hopen
    exact reportsFirstError_of_finished (firstError_build_of_open hopen) hexec

/-! ### The output commands (R201, R202), and all together -/

/-- A command that reads the packet, and whose one error is that there is none. -/
theorem reportsFirstError_of_readPacket {i : Instr} {s : State} {words : Packet → List Word}
    (hexec : exec i s = .next (readPacket words s)) (hcode : firstError i s = if s.pkt = none then 0x09 else 0) :
    ReportsFirstError i s := by
  cases hpkt : s.pkt with
  | none =>
    rw [readPacket_of_none words hpkt] at hexec
    exact reportsFirstError_of_finished (hcode.trans (if_pos hpkt)) hexec
  | some p =>
    rw [readPacket_of_some words hpkt] at hexec
    exact reportsFirstError_of_finished (hcode.trans (if_neg (by simp [hpkt]))) hexec

theorem reportsFirstError_of_ne_getStatus {i : Instr} (hi : i ≠ .getStatus) (s : State) : ReportsFirstError i s := by
  cases i with
  | setId | setIdIdle | setSeq | setSecHdr | clrSecHdr | setUserData | setIdle =>
    exact reportsFirstError_of_isSetter (by exact trivial) s
  | build => exact reportsFirstError_build s
  | newBuilder => exact reportsFirstError_of_finished rfl (newBuilderEmptiesBuilderKeepsPacket s)
  | pktLen | pktSerialize => exact reportsFirstError_of_readPacket rfl rfl
  | getStatus => exact absurd rfl hi
  | illegal =>
    exact reportsFirstError_of_finished rfl (congrArg Host.Outcome.next (finish_eq_finished .illegalCommand [] s))

end Sys2Proof.Machine

namespace Sys2Proof

open Sys2Proof.Machine Sys2Proof.Claims

/-- Settles O14: the setter frame and BUILD both look at the builder first (`exec_of_consumed`). -/
theorem consumedBuilderRefusesSettersAndBuild : Obligations.ConsumedBuilderRefusesSettersAndBuild :=
  fun _ _ => exec_of_consumed

/-- Settles O30: every command but GET_STATUS ends by `finish` with the code of its first error
(`reportsFirstError_of_ne_getStatus`). -/
theorem firstErrorInOrderIsReported : Obligations.FirstErrorInOrderIsReported :=
  fun _ s _ hi => (reportsFirstError_of_ne_getStatus hi s).lastStatus

end Sys2Proof
end

section
/-! What the host does to the state (R240, R250), when the block has no step (R245, R247), and why a session can always be
brought to its end (R249, R251). -/

namespace Sys2Proof.Machine

/-! ### Waiting (R240, R245, R247) -/

/-- What it is to wait for what the fault names; nothing waits for a data length. -/
def State.WaitsFor (s : State) : Fault → Prop
  | .responseFull => s.outbox ≠ [] ∧ Config.respCapacity ≤ s.respChan.length
  | .noCommand => s.outbox = [] ∧ s.cmdChan = []
  | .incompleteCommand => s.outbox = [] ∧ s.cmdChan ≠ [] ∧ ∀ i rest, decode s.cmdChan ≠ .ok (i, rest)
  | .dataLengthRange => False

theorem recvBF_ne_noCommandWord (ws : List Word) : recvBF ws ≠ .error .noCommandWord := by
  cases ws with
  | nil => nofun
  | cons len ws =>
    rw [recvBF]
    split <;> nofun

theorem recvOperands_ne_noCommandWord (k : Nat) (ws : List Word) : recvOperands k ws ≠ .error .noCommandWord := by
  induction k generalizing ws with
  | zero => nofun
  | succ k ih =>
    have hfirst := recvBF_ne_noCommandWord ws
    rw [recvOperands]
    cases hrecv : recvBF ws with
    | error e => simpa [hrecv] using hfirst
    | ok taken =>
      have hmore := ih taken.2
      cases hops : recvOperands k taken.2 with
      | error e => simpa [hops] using hmore
      | ok => simp [hops]

/-- Only the empty channel lacks a command word (R109). -/
theorem decode_cons_ne_noCommandWord (w0 : Word) (ws : List Word) : decode (w0 :: ws) ≠ .error .noCommandWord := by
  rw [decode]
  cases Opcode.ofByte (opcodeByte w0) with
  | none => nofun
  | some op =>
    have hops := recvOperands_ne_noCommandWord (op.operandCount w0) ws
    cases hrecv : recvOperands (op.operandCount w0) ws with
    | error e => simpa [hrecv] using hops
    | ok => simp [hrecv]

/-- What the block waits for is told by whether anything has come (R240, R245). -/
theorem waitFault_of_decode {ws : List Word} {e : DecodeError} (hd : decode ws = .error e) :
    waitFault e = if ws = [] then .noCommand else .incompleteCommand := by
  cases ws with
  | nil =>
    cases hd
    rfl
  | cons w0 ws =>
    cases e with
    | noCommandWord => exact absurd hd (decode_cons_ne_noCommandWord w0 ws)
    | noLengthWord | shortPayload => rfl

/-- A block that waits has no step (R245, R247). -/
theorem State.WaitsFor.step {s : State} {f : Fault} (h : s.WaitsFor f) : step s = .fault f := by
  cases f with
  | responseFull =>
    obtain ⟨hout, hfull⟩ := h
    obtain ⟨w, more, ho⟩ := List.exists_cons_of_ne_nil hout
    rw [step_of_outbox ho, sendResponse, if_neg (Nat.not_lt_of_le hfull)]
  | noCommand =>
    obtain ⟨ho, hc⟩ := h
    exact step_of_wait (e := .noCommandWord) ho (by rw [hc]; rfl)
  | incompleteCommand =>
    obtain ⟨ho, hc, hpart⟩ := h
    cases hd : decode s.cmdChan with
    | error e => rw [step_of_wait ho hd, waitFault_of_decode hd, if_neg hc]
    | ok taken => exact absurd hd (hpart taken.1 taken.2)
  | dataLengthRange => exact h.elim

/-- The block has a step, or waits for something. -/
theorem step_next_or_waits (s : State) : (∃ t, step s = .next t) ∨ ∃ f, s.WaitsFor f := by
  cases ho : s.outbox with
  | cons w more =>
    by_cases hroom : s.respChan.length < Config.respCapacity
    · exact .inl ⟨_, stepSendsPendingResponse s w more ho hroom⟩
    · exact .inr ⟨.responseFull, by simp [ho], Nat.le_of_not_lt hroom⟩
  | nil =>
    cases hd : decode s.cmdChan with
    | error e =>
      by_cases hc : s.cmdChan = []
      · exact .inr ⟨.noCommand, ho, hc⟩
      · exact .inr ⟨.incompleteCommand, ho, hc, by simp [hd]⟩
    | ok taken =>
      obtain ⟨t, hexec, -⟩ := exec_effect taken.1 { s with cmdChan := taken.2 }
      exact .inl ⟨t, (step_of_decode ho hd).trans hexec⟩

/-- The block stops with a fault exactly when it waits for what the fault names. -/
theorem step_fault_iff (s : State) (f : Fault) : step s = .fault f ↔ s.WaitsFor f := by
  refine ⟨fun hf => ?_, State.WaitsFor.step⟩
  obtain ⟨t, hstep⟩ | ⟨g, hwait⟩ := step_next_or_waits s
  · cases hf.symm.trans hstep
  · cases hf.symm.trans hwait.step
    exact hwait

theorem step_ne_refused (s : State) (r : Refusal) : step s ≠ .refused r := by
  obtain ⟨t, hstep⟩ | ⟨f, hwait⟩ := step_next_or_waits s
  · simp [hstep]
  · simp [hwait.step]

/-! ### Sessions that can finish (R249, R251) -/

/-- Some schedule without reset has the host send exactly these words and ends the session. -/
def Session.CanFinish (ws : List Word) (r : Session) : Prop :=
  ∃ es, Event.reset ∉ es ∧ sentWords es = ws ∧ (Session.run es r).finished

theorem Session.CanFinish.of_finished {r : Session} (h : r.finished) : r.CanFinish [] :=
  ⟨[], List.not_mem_nil, rfl, h⟩

theorem sentWords_cons (e : Event) (es : List Event) : sentWords (e :: es) = sentWords [e] ++ sentWords es := by
  cases e <;> rfl

/-- A schedule begins with any event but reset. -/
theorem Session.CanFinish.of_apply {ws : List Word} {r : Session} (e : Event) (he : e ≠ .reset)
    (h : (r.apply e).CanFinish ws) : r.CanFinish (sentWords [e] ++ ws) := by
  obtain ⟨es, hreset, hsent, hfin⟩ := h
  exact ⟨e :: es, by simp [hreset, he.symm], by rw [sentWords_cons, hsent], hfin⟩

variable {s : State} {got rest : List Word}

/-- The host can send words one after another. -/
theorem Session.CanFinish.of_sends (ws : List Word)
    (h : Session.CanFinish rest ⟨{ s with cmdChan := s.cmdChan ++ ws }, got⟩) :
    Session.CanFinish (ws ++ rest) ⟨s, got⟩ := by
  induction ws generalizing s with
  | nil => simpa using h
  | cons w ws ih => exact .of_apply (.send w) nofun (ih (s := hostSend w s) (by simpa [hostSend] using h))

theorem Session.CanFinish.of_step {t : State} (hstep : step s = .next t) (h : Session.CanFinish rest ⟨t, got⟩) :
    Session.CanFinish rest ⟨s, got⟩ := by
  have happly : Session.apply .block ⟨s, got⟩ = ⟨t, got⟩ := by simp only [Session.apply, hstep]
  exact .of_apply .block nofun (happly ▸ h)

theorem Session.CanFinish.of_read {w : Word} {more : List Word} (hr : s.respChan = w :: more)
    (h : Session.CanFinish rest ⟨{ s with respChan := more }, got ++ [w]⟩) : Session.CanFinish rest ⟨s, got⟩ := by
  have happly : Session.apply .read ⟨s, got⟩ = ⟨{ s with respChan := more }, got ++ [w]⟩ := by
    simp only [Session.apply, hostRead, hr]
  exact .of_apply .read nofun (happly ▸ h)

/-- A pending response leaves the block word by word, each read before the next one is sent; the one word of room that the
response channel has at least is enough (R247, log 2). -/
theorem Session.CanFinish.of_drained (hr : s.respChan = [])
    (h : ∀ got', Session.CanFinish rest ⟨{ s with outbox := [], respChan := [] }, got'⟩) :
    Session.CanFinish rest ⟨s, got⟩ := by
  induction ho : s.outbox generalizing s got with
  | nil =>
    cases s
    cases ho
    cases hr
    exact h got
  | cons w more ih =>
    have hroom : s.respChan.length < Config.respCapacity := by
      rw [hr]
      exact Nat.zero_lt_succ _
    refine .of_step (stepSendsPendingResponse s w more ho hroom) ?_
    refine .of_read (w := w) (more := []) (by simp [hr]) ?_
    exact ih (s := { s with outbox := more, respChan := [] }) rfl h rfl

/-- With empty channels the host can send a command, have it performed and read its whole response. -/
theorem Session.CanFinish.of_command {i : Instr} (hwf : i.wellFormed = true) (hs : Session.finished ⟨s, got⟩)
    (h : ∀ r : Session, r.finished → r.CanFinish rest) : Session.CanFinish (encode i ++ rest) ⟨s, got⟩ := by
  obtain ⟨hc, ho, hr⟩ : s.cmdChan = [] ∧ s.outbox = [] ∧ s.respChan = [] := hs
  have hdec : decode (s.cmdChan ++ encode i) = .ok (i, []) := by simpa [hc] using decode_encode [] hwf
  obtain ⟨t, -, hexec, -, -, hcmd, hresp⟩ := everyCommandAnswersOneStatusWord i { s with cmdChan := [] }
  have hstep : step { s with cmdChan := s.cmdChan ++ encode i } = .next t :=
    (step_of_decode (s := { s with cmdChan := s.cmdChan ++ encode i }) ho hdec).trans hexec
  exact .of_sends (encode i) (.of_step hstep (.of_drained (hresp.trans hr) fun _ => h _ ⟨hcmd, rfl, rfl⟩))

theorem Session.canFinish_commands {is : List Instr} (hwf : ∀ i ∈ is, i.wellFormed = true) {r : Session}
    (hr : r.finished) : r.CanFinish (is.flatMap encode) := by
  induction is generalizing r with
  | nil => exact .of_finished hr
  | cons i is ih =>
    obtain ⟨hi, his⟩ := List.forall_mem_cons.mp hwf
    exact .of_command hi hr fun _ => ih his

end Sys2Proof.Machine

namespace Sys2Proof

open Sys2Proof.Machine

/-- Settles O12: a step faults exactly with the name of what the block waits for (`step_fault_iff`). -/
theorem blockStopsExactlyWhenItWaits : Obligations.BlockStopsExactlyWhenItWaits := fun s =>
  ⟨step_fault_iff s .responseFull, step_fault_iff s .noCommand, step_fault_iff s .incompleteCommand,
    fun _ hf hlen => (step_fault_iff s .dataLengthRange).mp (hlen ▸ hf), step_ne_refused s⟩

/-- Settles O47: sending and reading change a channel only, of which the invariant says nothing
(`State.Inv.withChannels`), and reset meets it. -/
theorem hostKeepsInvariantAndBlockState : Obligations.HostKeepsInvariantAndBlockState := by
  refine fun s w hs => ⟨hs.withChannels _ s.outbox s.respChan, rfl, fun x u hread => ?_, reset_inv⟩
  obtain ⟨more, hr, rfl⟩ := hostRead_some hread
  exact ⟨hs.withChannels s.cmdChan s.outbox more, hr, rfl⟩

/-- Settles O50: command by command, the host sends its words and reads its whole response
(`Session.CanFinish.of_command`). -/
theorem everySessionCanFinish : Obligations.EverySessionCanFinish :=
  fun _ _ _ hwf hc ho hr => Session.canFinish_commands hwf ⟨hc, ho, hr⟩

end Sys2Proof
end

section
/-! Closed decodings of words written from the formats (R93 to R99, R108, R110), and what BUILD leaves of the builder (R170,
R180, R181). -/

namespace Sys2Proof

open Sys2Proof.Machine

/-- Settles O2: the opcode 0x0D is assigned to no command (`illegalCommandsAreRefusedWhole`); the other words are evaluated,
an operand being the first bits of its payload. -/
theorem specWordsDecodeToCommands : Obligations.SpecWordsDecodeToCommands := by
  obtain ⟨unassigned, -⟩ := illegalCommandsAreRefusedWhole
  exact ⟨rfl, rfl, rfl, rfl, rfl, unassigned 0x0D000000 _ (by decide)⟩

/-- Settles O31, by the effects a command can have: refused, failed or committed, BUILD writes no slot and no channel. -/
theorem buildKeepsSlotsInThisModel : Obligations.BuildKeepsSlotsInThisModel := by
  intro s t h
  cases execEffect_of_next h with
  | answered | buildFailed | built => exact ⟨rfl, rfl, rfl, rfl, rfl, rfl, rfl⟩
  | stored _ hw => exact hw.isSetter.elim
  | reported hi | emptied hi => cases hi

end Sys2Proof
end
